-- ==== Sys2Proof/Word.lean ====
section
/-! DEFINITION. The widths of the datapath (00_scope R8). -/

namespace Sys2Proof

/-- One character code, one octet, one beat of the sink (R8, R82). -/
abbrev Byte := BitVec 8

/-- One of the four 32-bit words of an operand (R71). -/
abbrev Word := BitVec 32

/-- One of the eight 16-bit groups of an operand (R72). -/
abbrev Group := BitVec 16

/-- The operand field `a` of a request (R70). -/
abbrev Operand := BitVec 128

/-- One request `r = {op, a}` (R70). -/
abbrev Request := BitVec 129

end Sys2Proof
end

