-- ==== Sys2Proof/Machine/Codes.lean ====
section
/-! DEFINITION. The fixed sets of names the registers hold, and the codes the debug port shows for them
(R21, R22, R78, R80). -/

namespace Sys2Proof.Machine

/-- `PH`, the phase (R21). -/
inductive Phase where
  | idle
  | emit
deriving DecidableEq, Repr, Inhabited

/-- `OP`, the operation of a request (R22, R74). -/
inductive Op where
  | enc4
  | enc6
deriving DecidableEq, Repr, Inhabited

/-- `FAM`, the family of a request (R78). -/
inductive Family where
  | v4
  | generic
  | mapped
  | compat
deriving DecidableEq, Repr, Inhabited

/-- `T[k]`, a field tag (R80). -/
inductive Tag where
  | chl
  | hl
  | nop
  | col
  | clo
  | cc
  | chc
  | hc
deriving DecidableEq, Repr, Inhabited

/-- A gap as the half-open range `[start, stop)` of group indices, at the width of `GS` and `GE` (R24). -/
structure Gap where
  start : BitVec 4
  stop  : BitVec 4
deriving DecidableEq, Repr, Inhabited

/-- The four tags `T[0..3]` (R25). -/
structure Tags where
  t0 : Tag
  t1 : Tag
  t2 : Tag
  t3 : Tag
deriving DecidableEq, Repr, Inhabited

/-- The four words `W[0..3]`, `w0` most significant (R22, R71). -/
structure Words where
  w0 : Word
  w1 : Word
  w2 : Word
  w3 : Word
deriving DecidableEq, Repr, Inhabited

/-- `dbg_busy = PH` (R21, R36). -/
def phaseCode : Phase → BitVec 1
  | .idle => 0
  | .emit => 1

/-- `op = 0` is ENC4, `op = 1` is ENC6 (R74). -/
def opCode : Op → BitVec 1
  | .enc4 => 0
  | .enc6 => 1

/-- The operation an `op` bit selects (R74). -/
def opOfBit (b : BitVec 1) : Op := if b = 0 then .enc4 else .enc6

/-- The family codes of R78. -/
def famCode : Family → BitVec 2
  | .v4 => 0
  | .generic => 1
  | .mapped => 2
  | .compat => 3

/-- The tag codes of R80. -/
def tagCode : Tag → BitVec 3
  | .chl => 0
  | .hl => 1
  | .nop => 2
  | .col => 3
  | .clo => 4
  | .cc => 5
  | .chc => 6
  | .hc => 7

end Sys2Proof.Machine
end

