-- ==== Sys2Proof/Machine/Operands.lean ====
section
/-! DEFINITION. The fields of a request: operation bit, words, groups, octets (R70 to R73, R77). Every field
is an unsigned slice at its own width. -/

namespace Sys2Proof.Machine

/-- `op`, bit 128 of a request (R70). -/
def reqOpBit (r : Request) : BitVec 1 := BitVec.extractLsb' 128 1 r

/-- `a`, bits 127:0 of a request (R70). -/
def reqOperand (r : Request) : Operand := BitVec.extractLsb' 0 128 r

/-- `r = {op, a}` (R70). -/
def packRequest (op : BitVec 1) (a : Operand) : Request := op ++ a

/-- `w0..w3`, big-endian (R71). -/
def wordsOf (a : Operand) : Words where
  w0 := BitVec.extractLsb' 96 32 a
  w1 := BitVec.extractLsb' 64 32 a
  w2 := BitVec.extractLsb' 32 32 a
  w3 := BitVec.extractLsb' 0 32 a

/-- `{w0, w1, w2, w3}` (R38, R71). -/
def operandOf (w : Words) : Operand := w.w0 ++ w.w1 ++ w.w2 ++ w.w3

/-- `HI(w) = w[31:16]` (R72). -/
def hiOf (w : Word) : Group := BitVec.extractLsb' 16 16 w

/-- `LO(w) = w[15:0]` (R72). -/
def loOf (w : Word) : Group := BitVec.extractLsb' 0 16 w

/-- `G(0), .., G(7)` in positional order (R72). -/
def groupsOf (w : Words) : List Group :=
  [hiOf w.w0, loOf w.w0, hiOf w.w1, loOf w.w1, hiOf w.w2, loOf w.w2, hiOf w.w3, loOf w.w3]

/-- `O(x, 0), .., O(x, 3)`, octet 0 most significant (R73). -/
def octetsOf (x : Word) : List Byte :=
  [BitVec.extractLsb' 24 8 x, BitVec.extractLsb' 16 8 x, BitVec.extractLsb' 8 8 x, BitVec.extractLsb' 0 8 x]

end Sys2Proof.Machine
end

