-- ==== Sys2Proof/Machine/Flags.lean ====
section
/-! DEFINITION. The block has no condition codes (R30). What it has instead are the family predicates,
combinational functions of the latched words (R180 to R184). -/

namespace Sys2Proof.Machine

/-- `IS_MAPPED` (R182). -/
def isMapped (w : Words) : Bool := w.w0 == 0 && w.w1 == 0 && w.w2 == 0x0000ffff

/-- `IS_COMPAT` (R183), an unsigned comparison. -/
def isCompat (w : Words) : Bool :=
  w.w0 == 0 && w.w1 == 0 && w.w2 == 0 && decide (0xffff < w.w3.toNat)

/-- `IS_GENERIC` (R181). -/
def isGeneric (w : Words) : Bool := !isMapped w && !isCompat w

/-- `FAMILY(op, w0, w1, w2, w3)` (R184). -/
def familyOf (op : Op) (w : Words) : Family :=
  match op with
  | .enc4 => .v4
  | .enc6 => if isMapped w then .mapped else if isCompat w then .compat else .generic

end Sys2Proof.Machine
end

