-- ==== Sys2Proof/Syntax.lean ====
section
/-! DEFINITION. The request set: one constructor per row of spec/opcode_table.json (R94). -/

namespace Sys2Proof

open Sys2Proof.Machine

/-- A decoded request. `enc6` is what the first level of decoding reads (by the operation bit alone); the
three sub-cases are what the second level makes of it (R94; log 1). -/
inductive Instr where
  /-- ENC4 (R106). `ign` is `a[127:32]`, ignored by the string and latched all the same (R75). -/
  | enc4 (ign : BitVec 96) (x : Word)
  /-- ENC6, not yet split by family (R186). -/
  | enc6 (w : Words)
  /-- ENC6.MAPPED (R188): the operand is `(0, 0, 0xffff, w3)`. -/
  | enc6Mapped (w3 : Word)
  /-- ENC6.COMPAT (R189): the operand is `(0, 0, 0, w3)` with `w3 > 0xffff`. -/
  | enc6Compat (w3 : Word)
  /-- ENC6.GENERIC (R187): every other operand. -/
  | enc6Generic (w : Words)
deriving DecidableEq, Repr

end Sys2Proof
end

