-- ==== Sys2Proof/WellFormed.lean ====
section
/-! DEFINITION. When a term of `Instr` stands for a request. Every request is legal (R76); what is checked
are the constraints that the sub-case rows of the opcode table put on their operand. -/

namespace Sys2Proof

open Sys2Proof.Machine

/-- The operand satisfies its row's constraint (R181, R183, R94). -/
def Instr.wellFormed : Instr → Bool
  | .enc4 _ _ => true
  | .enc6 _ => true
  | .enc6Mapped _ => true
  | .enc6Compat w3 => decide (0xffff < w3.toNat)
  | .enc6Generic w => isGeneric w

/-- Both levels of decoding have been applied: it is not the undivided `enc6` (R94). -/
def Instr.refined : Instr → Bool
  | .enc6 _ => false
  | .enc4 _ _ => true
  | .enc6Mapped _ => true
  | .enc6Compat _ => true
  | .enc6Generic _ => true

end Sys2Proof
end

