-- ==== Sys2Proof/Decode.lean ====
section
/-! DEFINITION. Decoding a request in two levels, and the encoder written from the same formats (R70, R71,
R74, R94). -/

namespace Sys2Proof

open Sys2Proof.Machine

/-- Why a bit pattern is no request. -/
inductive DecodeError where
  /-- It has a bit set above bit 128, so it does not fit the 129 wires of the request port (R70). -/
  | widerThanRequest
deriving DecidableEq, Repr

/-- Level 1, by the operation bit alone (R94, R74). -/
def decodeOp (r : Request) : Instr :=
  let w := wordsOf (reqOperand r)
  if reqOpBit r = 0 then .enc4 (BitVec.extractLsb' 32 96 (reqOperand r)) w.w3 else .enc6 w

/-- Level 2, for ENC6 only, by the value of the operand (R94, R181 to R183). -/
def refineCase : Instr → Instr
  | .enc6 w =>
    if isMapped w then .enc6Mapped w.w3 else if isCompat w then .enc6Compat w.w3 else .enc6Generic w
  | .enc4 ign x => .enc4 ign x
  | .enc6Mapped w3 => .enc6Mapped w3
  | .enc6Compat w3 => .enc6Compat w3
  | .enc6Generic w => .enc6Generic w

/-- The decoder: total, every request has exactly one meaning (R76, R94). -/
def decode (r : Request) : Instr := refineCase (decodeOp r)

/-- The decoder on an unbounded bit pattern; the one rejection is a pattern wider than a request (R70). -/
def decodeBits (n : Nat) : Except DecodeError Instr :=
  if n < 2 ^ 129 then .ok (decode (BitVec.ofNat 129 n)) else .error .widerThanRequest

/-- The decoder on the 17 bytes that hold a request, the first byte holding bits 7:0; bytes beyond the
list count as zero (log 14). -/
def decodeBytes (bs : List Byte) : Except DecodeError Instr :=
  decodeBits (bs.foldr (fun b n => b.toNat + 256 * n) 0)

/-- The operation of a request (R74). -/
def Instr.op : Instr → Op
  | .enc4 _ _ => .enc4
  | .enc6 _ => .enc6
  | .enc6Mapped _ => .enc6
  | .enc6Compat _ => .enc6
  | .enc6Generic _ => .enc6

/-- The operand's words (R75, R182, R183, R186). -/
def Instr.words : Instr → Words
  | .enc4 ign x =>
    ⟨BitVec.extractLsb' 64 32 ign, BitVec.extractLsb' 32 32 ign, BitVec.extractLsb' 0 32 ign, x⟩
  | .enc6 w => w
  | .enc6Mapped w3 => ⟨0, 0, 0x0000ffff, w3⟩
  | .enc6Compat w3 => ⟨0, 0, 0, w3⟩
  | .enc6Generic w => w

/-- The request of an instruction (R70, R71). -/
def encode (i : Instr) : Request := packRequest (opCode i.op) (operandOf i.words)

/-- The instruction the decoder reads from an instruction of `nbits` bits whose bits are `w`, bit 0 the least
significant bit of the request; bits from `nbits` on are zero (log 14). -/
def decodeTableWord (nbits w : Nat) : Option Instr :=
  (decodeBits (w % 2 ^ nbits)).toOption

end Sys2Proof
end

