-- ==== Sys2Proof/Config.lean ====
section
/-! DEFINITION. What an implementation fixes, and the values the spec leaves open. No constant below that is
`opaque` has a body: nothing can be proved of its value. -/

namespace Sys2Proof.Config

open Sys2Proof.Machine

/-- `OB_MAX`, the depth of the output buffer (R8, R26). -/
abbrev obMax : Nat := 39

/-- `SINK_ERR_W`, the width of a sink's failure code, an open parameter (R8, 92 D13; log 8). -/
opaque sinkErrW : Nat

/-- A sink's failure code (R34, R83). -/
abbrev SinkCode := BitVec sinkErrW

/-- `OP` after the `n`-th draw: unspecified after a reset step (R42; log 4). -/
opaque freeOp : Nat → Op

/-- `W[0..3]`: unspecified after a reset step (R42; log 4). -/
opaque freeWords : Nat → Words

/-- `FAM`: unspecified after a reset step (R42; log 4). -/
opaque freeFam : Nat → Family

/-- `GS`: unspecified after a reset step (R42; log 4). -/
opaque freeGs : Nat → BitVec 4

/-- `GE`: unspecified after a reset step (R42; log 4). -/
opaque freeGe : Nat → BitVec 4

/-- `T[0..3]`: unspecified after a reset step (R42; log 4). -/
opaque freeTags : Nat → Tags

/-- `OLEN`: unspecified after a reset step (R42; log 4). -/
opaque freeOlen : Nat → BitVec 6

/-- `OB[i]`: unspecified after a reset step for every `i` (R42; log 4), and after an accept step for every
`i` past the string (R26, 93 U3; log 5). -/
opaque freeOb : Nat → Nat → Byte

/-- `CLASSIFY(k, gs, ge)` for a pair that is no result of the gap finder (R147, 93 U4; log 6). -/
opaque offDomainTag : Fin 4 → Gap → Tag

/-- What `OB[i]` reads as for an `i` past the buffer's 39 entries; no reachable state reads it (R26, R27;
log 7). -/
opaque noEntry : BitVec 6 → Byte

end Sys2Proof.Config
end

