-- ==== Sys2Proof/Machine/Chars.lean ====
section
/-! DEFINITION. The characters the block emits (R84 to R86). The numeric codes are ASCII's, from outside the
source: PRESUMED by 93 K1 (log 15). -/

namespace Sys2Proof.Machine

/-- `":"` (R84). -/
abbrev colon : Byte := 0x3A

/-- `"."` (R84). -/
abbrev dot : Byte := 0x2E

/-- `DECDIGIT(n)` for `n` in 0..9 (R86). -/
def decDigit (n : Nat) : Byte := BitVec.ofNat 8 (0x30 + n)

/-- `HEXDIGIT(n)` for a 4-bit value, lower case (R85). -/
def hexDigit (n : BitVec 4) : Byte :=
  if n.toNat ≤ 9 then BitVec.ofNat 8 (0x30 + n.toNat) else BitVec.ofNat 8 (0x61 + (n.toNat - 10))

/-- The literal token `"::ffff:"` of the mapped family, seven constant bytes (R188). -/
def mappedToken : List Byte := [0x3A, 0x3A, 0x66, 0x66, 0x66, 0x66, 0x3A]

/-- The literal token `"::"` of the compatible family (R189). -/
def compatToken : List Byte := [0x3A, 0x3A]

/-- The 18 byte values of R84. -/
def outputChars : List Byte :=
  [0x2E, 0x3A, 0x30, 0x31, 0x32, 0x33, 0x34, 0x35, 0x36, 0x37, 0x38, 0x39, 0x61, 0x62, 0x63, 0x64, 0x65, 0x66]

end Sys2Proof.Machine
end

