-- ==== Sys2Proof/Machine/GapFinder.lean ====
section
/-! DEFINITION. The Gap Finder: GAPFIND (41_gap_finder). -/

namespace Sys2Proof.Machine

/-- The temporaries of one scan (R121); they are no state (R41). -/
structure Scan where
  run : Nat
  bl  : Nat
  bs  : Nat
  be  : Nat
deriving DecidableEq, Repr

/-- `run = 0`, `bl = 0`, `bs = 0`, `be = 0` (R121). -/
def scanStart : Scan := ⟨0, 0, 0, 0⟩

/-- One turn of R121's loop at index `i`; `z` says whether `G(i)` is zero. The strict comparison keeps the
leftmost of equal runs (R123). -/
def scanGroup (i : Nat) (z : Bool) (c : Scan) : Scan :=
  if z then
    let run := c.run + 1
    if c.bl < run then ⟨run, run, i + 1 - run, i + 1⟩ else { c with run := run }
  else { c with run := 0 }

/-- R121's loop from index `i` on. -/
def scanGroups (i : Nat) (zs : List Bool) (c : Scan) : Scan :=
  match zs with
  | [] => c
  | z :: rest => scanGroups (i + 1) rest (scanGroup i z c)

/-- The final test of R121: a run shorter than two groups is no gap (R124). -/
def gapOfScan (c : Scan) : Gap :=
  if 2 ≤ c.bl then ⟨BitVec.ofNat 4 c.bs, BitVec.ofNat 4 c.be⟩ else ⟨0, 0⟩

/-- Which groups are zero: all the gap finder looks at (R120, R128). -/
def zeroVector (w : Words) : List Bool := (groupsOf w).map (· == 0)

/-- `GAPFIND` as a function of the zero vector (R128). -/
def gapOfZeros (zs : List Bool) : Gap := gapOfScan (scanGroups 0 zs scanStart)

/-- `GAPFIND(G(0), .., G(7))` (R121). -/
def gapFind (w : Words) : Gap := gapOfZeros (zeroVector w)

/-- The 29 results of the gap finder: no gap, or at least two groups within 0..8 (R24, R122, R127). -/
def gapLegal (g : Gap) : Bool :=
  g == ⟨0, 0⟩ || (decide (g.start.toNat + 2 ≤ g.stop.toNat) && decide (g.stop.toNat ≤ 8))

end Sys2Proof.Machine
end

