-- ==== Sys2Proof/Machine/FieldClassifier.lean ====
section
/-! DEFINITION. The Field Classifier: HEX16, CLASSIFY, the eight tag emitters and GENTEXT
(42_field_classifier). -/

namespace Sys2Proof.Machine

/-- `HEX16(v)`: lower-case hexadecimal, no leading zeros (R140). -/
def hex16 (v : Group) : List Byte :=
  let n3 : BitVec 4 := BitVec.extractLsb' 12 4 v
  let n2 : BitVec 4 := BitVec.extractLsb' 8 4 v
  let n1 : BitVec 4 := BitVec.extractLsb' 4 4 v
  let n0 : BitVec 4 := BitVec.extractLsb' 0 4 v
  if n3 ≠ 0 then [hexDigit n3, hexDigit n2, hexDigit n1, hexDigit n0]
  else if n2 ≠ 0 then [hexDigit n2, hexDigit n1, hexDigit n0]
  else if n1 ≠ 0 then [hexDigit n1, hexDigit n0]
  else [hexDigit n0]

/-- `CLASSIFY(0, GS, GE)` (R146): no group lies before word 0. -/
def classifyFirst (gs ge : Nat) : Tag :=
  if ge = 0 ∨ 1 < gs then .hl else if gs = 0 then .col else .hc

/-- `CLASSIFY(k, GS, GE)` for the words 1 and 2, whose groups are `il` and `il + 1` (R146). -/
def classifyMiddle (il gs ge : Nat) : Tag :=
  if ge ≤ il ∨ il + 1 < gs then .chl
  else if gs = il then .col
  else if gs = il + 1 then .chc
  else if ge = il + 1 then .clo
  else .nop

/-- `CLASSIFY(3, GS, GE)` (R146): no group lies after word 3. -/
def classifyLast (gs ge : Nat) : Tag :=
  if ge ≤ 6 then .chl else if gs = 6 then .cc else if ge = 8 then .col else .clo

/-- `CLASSIFY(k, GS, GE)` (R146) on the 29 gaps; on any other pair its value is not specified (R147), so it is
a free value (log 6). -/
def classify (k : Fin 4) (g : Gap) : Tag :=
  if gapLegal g then
    match k with
    | 0 => classifyFirst g.start.toNat g.stop.toNat
    | 1 => classifyMiddle 2 g.start.toNat g.stop.toNat
    | 2 => classifyMiddle 4 g.start.toNat g.stop.toNat
    | 3 => classifyLast g.start.toNat g.stop.toNat
  else Config.offDomainTag k g

/-- The four classifier instances (R142, R146). -/
def tagsOf (g : Gap) : Tags := ⟨classify 0 g, classify 1 g, classify 2 g, classify 3 g⟩

/-- `EMITTAG(t, w)` (R160 to R168). -/
def emitTag (t : Tag) (w : Word) : List Byte :=
  match t with
  | .chl => [colon] ++ hex16 (hiOf w) ++ [colon] ++ hex16 (loOf w)
  | .hl => hex16 (hiOf w) ++ [colon] ++ hex16 (loOf w)
  | .nop => []
  | .col => [colon]
  | .clo => [colon] ++ hex16 (loOf w)
  | .cc => [colon, colon]
  | .chc => [colon] ++ hex16 (hiOf w) ++ [colon]
  | .hc => hex16 (hiOf w) ++ [colon]

/-- What the four words send under four tags, in word order (R169, R191). -/
def emitWords (t : Tags) (w : Words) : List Byte :=
  emitTag t.t0 w.w0 ++ emitTag t.t1 w.w1 ++ emitTag t.t2 w.w2 ++ emitTag t.t3 w.w3

/-- `GENTEXT(W)` (R169). -/
def genText (w : Words) : List Byte := emitWords (tagsOf (gapFind w)) w

end Sys2Proof.Machine
end

