-- ==== Sys2Proof/Machine/Ipv4Encoder.lean ====
section
/-! DEFINITION. The IPv4 Encoder: DEC8 and V4TEXT (40_ipv4_encoder). Arithmetic is on unsigned integers
(R112). -/

namespace Sys2Proof.Machine

/-- `DEC8(v)`: decimal digits, no leading zeros (R100). -/
def dec8 (v : Byte) : List Byte :=
  let n := v.toNat
  if 100 ≤ n then [decDigit (n / 100), decDigit (n / 10 % 10), decDigit (n % 10)]
  else if 10 ≤ n then [decDigit (n / 10 % 10), decDigit (n % 10)]
  else [decDigit (n % 10)]

/-- `V4TEXT(x)`: the four octets in decimal, joined by dots (R103). -/
def v4Text (x : Word) : List Byte := [dot].intercalate ((octetsOf x).map dec8)

end Sys2Proof.Machine
end

