-- ==== Sys2Proof/Machine/Dispatcher.lean ====
section
/-! DEFINITION. The IPv6 Encoder's dispatcher and the emission mux: the string of every request
(43_ipv6_dispatcher). -/

namespace Sys2Proof.Machine

/-- `TEXT6_MAPPED` (R188). -/
def mappedText (w3 : Word) : List Byte := mappedToken ++ v4Text w3

/-- `TEXT6_COMPAT` (R189). -/
def compatText (w3 : Word) : List Byte := compatToken ++ v4Text w3

/-- `TEXT(op, a)` (R190). -/
def textOf (op : Op) (w : Words) : List Byte :=
  match familyOf op w with
  | .v4 => v4Text w.w3
  | .generic => genText w
  | .mapped => mappedText w.w3
  | .compat => compatText w.w3

/-- The segments the emission mux selects by `FAM`, in order (R191). It reads the tags in the row GENERIC
only (R194). -/
def muxSegments (fam : Family) (t : Tags) (w : Words) : List (List Byte) :=
  match fam with
  | .v4 => [v4Text w.w3]
  | .generic => [emitTag t.t0 w.w0, emitTag t.t1 w.w1, emitTag t.t2 w.w2, emitTag t.t3 w.w3]
  | .mapped => [mappedToken, v4Text w.w3]
  | .compat => [compatToken, v4Text w.w3]

/-- The mux's output: the segments concatenated (R191). -/
def muxText (fam : Family) (t : Tags) (w : Words) : List Byte := (muxSegments fam t w).flatten

end Sys2Proof.Machine
end

