-- ==== Sys2Proof/Machine/State.lean ====
section
/-! DEFINITION. The state of one instance of the block (R20), the input levels its environment will drive
(log 2), the record of events (R58; log 10), and the state right after reset (R42). -/

namespace Sys2Proof.Machine

/-- The levels of the block's inputs at one rising edge (R32 to R34). -/
structure Edge where
  rst      : Bool
  reqValid : Bool
  reqOp    : BitVec 1
  reqA     : Operand
  snkReady : Bool
  snkFail  : Bool
  snkCode  : Config.SinkCode
deriving DecidableEq, Repr

/-- What the completion port drives in a cycle with `cpl_valid = 1` (R35, R83, R216). -/
structure Completion where
  fail : Bool
  code : Config.SinkCode
deriving DecidableEq, Repr

/-- The events of R58. -/
inductive Event where
  /-- The accept step (R192). -/
  | accept (op : Op) (a : Operand)
  /-- A byte delivered to the sink (R54, R55). -/
  | byte (b : Byte) (last : Bool)
  /-- The sink refused a byte (R212). -/
  | fail (code : Config.SinkCode)
  /-- The end of a request (R216). -/
  | done (fail : Bool) (code : Config.SinkCode)
  /-- The reset step (R240). -/
  | reset
deriving DecidableEq, Repr

/-- The registers of R20, the registered completion output, the record of events, and the model's own two
fields `script` and `draws`. -/
structure State where
  /-- `PH` (R21). -/
  ph     : Phase
  /-- `OP` (R22). -/
  op     : Op
  /-- `W[0..3]` (R22). -/
  w      : Words
  /-- `FAM` (R23). -/
  fam    : Family
  /-- `GS` (R24). -/
  gs     : BitVec 4
  /-- `GE` (R24). -/
  ge     : BitVec 4
  /-- `T[0..3]` (R25). -/
  t      : Tags
  /-- `OB[0..38]` (R26). -/
  ob     : Vector Byte 39
  /-- `OLEN` (R26). -/
  olen   : BitVec 6
  /-- `OPTR` (R27). -/
  optr   : BitVec 6
  /-- `DV` (R29). -/
  dv     : Bool
  /-- The completion port's registered output, absent while `cpl_valid = 0` (R35, R216, R240; log 9). -/
  cpl    : Option Completion
  /-- The events so far, oldest first (R58; log 10). -/
  events : List Event
  /-- The model's own: the input levels of the coming edges, next one first (log 2). -/
  script : List Edge
  /-- The model's own: how many times a free value was drawn (log 4). -/
  draws  : Nat
deriving DecidableEq, Repr

/-- Why the machine stops. It has no constructor: no operand faults and nothing but the sink fails, which the
block reports and survives (R76, R210, R215, R220). Nothing raises it. -/
inductive Fault where
deriving DecidableEq, Repr

/-- Why an instruction is not run. -/
inductive Refusal where
  /-- Reserved for an arm of `exec` whose instruction has no meaning yet. No arm raises it; it would be
  safe. -/
  | notModelled (mnemonic : String)
deriving DecidableEq, Repr

/-- The state right after reset: `PH`, `OPTR`, `DV` and the completion port as R42 and R240 say; the registers
R42 leaves unspecified at zero, a DESIGN CHOICE (log 3); no event recorded, no input pending. -/
def State.reset : State where
  ph     := .idle
  op     := .enc4
  w      := ⟨0, 0, 0, 0⟩
  fam    := .v4
  gs     := 0
  ge     := 0
  t      := ⟨.chl, .chl, .chl, .chl⟩
  ob     := Vector.replicate 39 0
  olen   := 0
  optr   := 0
  dv     := false
  cpl    := none
  events := []
  script := []
  draws  := 0

end Sys2Proof.Machine
end

