-- ==== Sys2Proof/Machine/Ops.lean ====
section
/-! DEFINITION. The shared operations: looking at an edge, accepting a request, delivering a byte, taking the
one exception (the abort step), completing a request, and resetting. -/

namespace Sys2Proof.Machine

/-- All inputs low: no reset, no request, a sink that does not answer. -/
def quietEdge : Edge := ⟨false, false, 0, 0, false, false, 0⟩

/-- The input levels at the next rising edge; past the end of the script all inputs are low (log 2). -/
def edgeOf (s : State) : Edge := s.script.head?.getD quietEdge

/-- What every edge does whatever it decides: its input levels are used up, and the completion pulse, one
cycle long, ends (R35, R216). -/
def tick (s : State) : State := { s with script := s.script.tail, cpl := none }

/-- The request on the port, sampled at the accepting edge (R33, R70). -/
def fetchRequest (e : Edge) : Request := packRequest e.reqOp e.reqA

/-- Record an event (R58). -/
def emitEvent (v : Event) (s : State) : State := { s with events := s.events ++ [v] }

/-- `OB` holding the string `str`; the entries past it are unspecified (R26, 93 U3; log 5). -/
def bufferOf (str : List Byte) (n : Nat) : Vector Byte 39 :=
  Vector.ofFn fun i => str[i.val]?.getD (Config.freeOb n i.val)

/-- The accept step (R192) for a request whose family is `fam` and whose string is `str`. The gap finder and
the classifier run on every operand (R37, R194). -/
def accept (op : Op) (w : Words) (fam : Family) (str : List Byte) (s : State) : State :=
  emitEvent (.accept op (operandOf w))
    { s with
      ph    := .emit
      op    := op
      w     := w
      fam   := fam
      gs    := (gapFind w).start
      ge    := (gapFind w).stop
      t     := tagsOf (gapFind w)
      ob    := bufferOf str s.draws
      olen  := BitVec.ofNat 6 str.length
      optr  := 0
      dv    := true
      draws := s.draws + 1 }

/-- A request on offer: accepted in phase IDLE (R192), in phase EMIT neither accepted nor remembered
(R195; log 16). -/
def offer (op : Op) (w : Words) (fam : Family) (str : List Byte) (s : State) :
    Host.Outcome State Fault Refusal :=
  match s.ph with
  | .idle => .next (accept op w fam str s)
  | .emit => .next s

/-- The three answers of a sink to a beat (R53). -/
inductive SinkAnswer where
  | taken
  | stalled
  | failed (code : Config.SinkCode)
deriving DecidableEq, Repr

/-- How the sink's inputs decide the answer: a failure wins over ready (R53, R218). -/
def sinkAnswer (e : Edge) : SinkAnswer :=
  if e.snkFail then .failed e.snkCode else if e.snkReady then .taken else .stalled

/-- The byte on offer, `OB[OPTR]` (R34, R53); an entry past the buffer does not exist (log 7). -/
def byteOnOffer (s : State) : Byte := s.ob[s.optr.toNat]?.getD (Config.noEntry s.optr)

/-- `OPTR = OLEN - 1` (R34, R53). -/
def lastOnOffer (s : State) : Bool := s.optr.toNat + 1 == s.olen.toNat

/-- `Complete(fail, code)`: the pulse of the next cycle and the event `Done` (R216). -/
def complete (fail : Bool) (code : Config.SinkCode) (s : State) : State :=
  emitEvent (.done fail code) { s with cpl := some ⟨fail, code⟩ }

/-- Delivery of a byte that is not the last (R54). -/
def deliverMore (s : State) : State :=
  emitEvent (.byte (byteOnOffer s) false) { s with optr := s.optr + 1 }

/-- Delivery of the last byte (R55). -/
def deliverLast (s : State) : State :=
  complete false 0 (emitEvent (.byte (byteOnOffer s) true) { s with optr := s.olen, ph := .idle })

/-- A byte the sink took (R54, R55). -/
def deliver (s : State) : State := if lastOnOffer s then deliverLast s else deliverMore s

/-- Taking the exception `SinkFail(code)`: the abort step (R212). There is no return from it to model: the
block is in IDLE and keeps no trace of the failure (R219, R220). -/
def abort (code : Config.SinkCode) (s : State) : State :=
  complete true code (emitEvent (.fail code) { s with ph := .idle })

/-- One edge of phase EMIT (R53, R218 rows 2 to 4). -/
def beat (a : SinkAnswer) (s : State) : State :=
  match a with
  | .taken => deliver s
  | .stalled => s
  | .failed code => abort code s

/-- The reset step (R240). The data registers become unspecified (R42): each is a fresh free value
(log 4). -/
def resetStep (s : State) : State :=
  emitEvent .reset
    { s with
      ph    := .idle
      optr  := 0
      dv    := false
      op    := Config.freeOp s.draws
      w     := Config.freeWords s.draws
      fam   := Config.freeFam s.draws
      gs    := Config.freeGs s.draws
      ge    := Config.freeGe s.draws
      t     := Config.freeTags s.draws
      ob    := Vector.ofFn fun i => Config.freeOb s.draws i.val
      olen  := Config.freeOlen s.draws
      cpl   := none
      draws := s.draws + 1 }

/-- The state in which the next edge offers the request `r` to a block that is ready for it, with the sink
silent (log 13). -/
def placeRequest (s : State) (r : Request) : State :=
  { s with
    ph := .idle
    script := ⟨false, true, reqOpBit r, reqOperand r, false, false, 0⟩ :: s.script }

end Sys2Proof.Machine
end

