-- ==== Sys2Proof/Machine/Enc4.lean ====
section
/-! DEFINITION. The operation ENC4 (R106). -/

namespace Sys2Proof.Machine

/-- ENC4: the string is `V4TEXT(a[31:0])`; the ignored bits are latched (R75, R106). -/
def execEnc4 (ign : BitVec 96) (x : Word) (s : State) : Host.Outcome State Fault Refusal :=
  offer .enc4 (Instr.enc4 ign x).words .v4 (v4Text x) s

end Sys2Proof.Machine
end

