-- ==== Sys2Proof/Machine/Enc6.lean ====
section
/-! DEFINITION. The operation ENC6 (R186) and its three sub-cases (R187 to R189). -/

namespace Sys2Proof.Machine

/-- ENC6, the family decided by the operand (R184, R186). -/
def execEnc6 (w : Words) (s : State) : Host.Outcome State Fault Refusal :=
  offer .enc6 w (familyOf .enc6 w) (textOf .enc6 w) s

/-- ENC6.MAPPED (R188). -/
def execEnc6Mapped (w3 : Word) (s : State) : Host.Outcome State Fault Refusal :=
  offer .enc6 (Instr.enc6Mapped w3).words .mapped (mappedText w3) s

/-- ENC6.COMPAT (R189). -/
def execEnc6Compat (w3 : Word) (s : State) : Host.Outcome State Fault Refusal :=
  offer .enc6 (Instr.enc6Compat w3).words .compat (compatText w3) s

/-- ENC6.GENERIC (R187). -/
def execEnc6Generic (w : Words) (s : State) : Host.Outcome State Fault Refusal :=
  offer .enc6 w .generic (genText w) s

end Sys2Proof.Machine
end

