-- ==== Sys2Proof/Machine/Dispatch.lean ====
section
/-! DEFINITION. The meaning of every request: what it does at the edge at which it is offered. -/

namespace Sys2Proof.Machine

def exec (i : Instr) (s : State) : Host.Outcome State Fault Refusal :=
  match i with
  | .enc4 ign x => Sys2Proof.Machine.execEnc4 ign x s
  | .enc6 w => Sys2Proof.Machine.execEnc6 w s
  | .enc6Mapped w3 => Sys2Proof.Machine.execEnc6Mapped w3 s
  | .enc6Compat w3 => Sys2Proof.Machine.execEnc6Compat w3 s
  | .enc6Generic w => Sys2Proof.Machine.execEnc6Generic w s

end Sys2Proof.Machine
end

