-- ==== Sys2Proof/Machine/Edge.lean ====
section
/-! DEFINITION. One rising clock edge (R32, R218). -/

namespace Sys2Proof.Machine

/-- The block looks at its inputs in the order of R218: reset, then in phase EMIT the sink's answer, then in
phase IDLE a request on offer. -/
def edgeStep (s : State) : Host.Outcome State Fault Refusal :=
  if (edgeOf s).rst then .next (resetStep (tick s))
  else
    match s.ph with
    | .emit => .next (beat (sinkAnswer (edgeOf s)) (tick s))
    | .idle =>
      if (edgeOf s).reqValid then exec (decode (fetchRequest (edgeOf s))) (tick s) else .next (tick s)

end Sys2Proof.Machine
end

