-- ==== Sys2Proof/Machine/Step.lean ====
section
/-! DEFINITION. One step of the machine is one rising clock edge (R32; log 12). -/

namespace Sys2Proof.Machine

/-- One rising clock edge. -/
def step (s : State) : Host.Outcome State Fault Refusal := edgeStep s

/-- `s` with the request whose bits are `w`, `nbits` of them, on offer at the next edge (log 13, log 14). -/
def State.withFetchWord (s : State) (nbits w : Nat) : State :=
  placeRequest s (BitVec.ofNat 129 (w % 2 ^ nbits))

end Sys2Proof.Machine
end

