-- ==== Sys2Proof/Machine/Assembler.lean ====
section
/-! DEFINITION. The assembler syntax of requests, the pseudo-requests and the test directives (R91, R92), and
the input script a program of them stands for (R257). Notation only: nothing else depends on it (92 D17;
log 19). -/

namespace Sys2Proof.Machine

/-- One line of a program: the two requests, the three pseudo-requests, and the directives (R91, R92).
`sinkTake` is the model's own, for the comments of 95_test_vectors P4 (log 19). -/
inductive AsmLine where
  | enc4 (x : Word)
  | enc6 (w : Words)
  | enc4o (o0 o1 o2 o3 : Byte)
  | enc6g (g0 g1 g2 g3 g4 g5 g6 g7 : Group)
  | enc6x (a : Operand)
  | reset
  | sinkFail (i code : Nat)
  | sinkStall (n : Nat)
  | sinkTake (n : Nat)
deriving DecidableEq, Repr

/-- What a request or pseudo-request expands to; directives are no requests (R91, R92). -/
def asmRequest : AsmLine → Option Instr
  | .enc4 x => some (.enc4 0 x)
  | .enc6 w => some (.enc6 w)
  | .enc4o o0 o1 o2 o3 => some (.enc4 0 (o0 ++ o1 ++ o2 ++ o3))
  | .enc6g g0 g1 g2 g3 g4 g5 g6 g7 => some (.enc6 ⟨g0 ++ g1, g2 ++ g3, g4 ++ g5, g6 ++ g7⟩)
  | .enc6x a => some (.enc6 (wordsOf a))
  | .reset => none
  | .sinkFail _ _ => none
  | .sinkStall _ => none
  | .sinkTake _ => none

/-- An edge at which the request `r` is offered. -/
def offerEdge (r : Request) : Edge := ⟨false, true, reqOpBit r, reqOperand r, false, false, 0⟩

/-- An edge at which the sink takes the byte on offer. -/
def takeEdge : Edge := { quietEdge with snkReady := true }

/-- An edge at which the sink fails the beat with a code. Of a code that does not fit `SINK_ERR_W` bits the low bits
are kept: R92 does not say, a DESIGN CHOICE (log 22). -/
def failEdge (code : Nat) : Edge := { quietEdge with snkFail := true, snkCode := BitVec.ofNat Config.sinkErrW code }

/-- An edge with reset asserted. -/
def resetEdge : Edge := { quietEdge with rst := true }

/-- The answers that end a request of `n` bytes still to be sent: all taken, or the failure a `sink.fail` line
asked for. -/
def drainEdges (n : Nat) (failing : Option (Nat × Nat)) : List Edge :=
  match failing with
  | none => List.replicate n takeEdge
  | some (i, code) => List.replicate i takeEdge ++ [failEdge code]

/-- The requests of a program, in the order in which they are offered (R92, R257). -/
def asmProgram (lines : List AsmLine) : List Request := (lines.filterMap asmRequest).map encode

/-- The input script of a program (R92, R257; log 19). `left` bytes of the request in progress are still to be
sent, `failing` is its failure, if one was asked for, as bytes to go and code; `armed` is the failure the next
request will meet; `stalls` is how often its first beat will stall. A second `sink.fail` line before a request
replaces the first: R92 does not say, a DESIGN CHOICE (log 23). -/
def asmScript (left : Nat) (failing armed : Option (Nat × Nat)) (stalls : Nat) : List AsmLine → List Edge
  | [] => drainEdges left failing
  | .reset :: rest => resetEdge :: asmScript 0 none armed stalls rest
  | .sinkStall n :: rest =>
    if left = 0 then asmScript left failing armed (stalls + n) rest
    else List.replicate n quietEdge ++ asmScript left failing armed stalls rest
  | .sinkTake n :: rest =>
    List.replicate n takeEdge ++ asmScript (left - n) (failing.map fun f => (f.1 - n, f.2)) armed stalls rest
  | .sinkFail i code :: rest => asmScript left failing (some (i, code)) stalls rest
  | line :: rest =>
    match asmRequest line with
    | none => asmScript left failing armed stalls rest
    | some i =>
      drainEdges left failing ++ offerEdge (encode i) :: List.replicate stalls quietEdge ++
        asmScript (textOf i.op i.words).length armed none 0 rest

/-- A request as its 33 hexadecimal digits, the first being `op` (R91). -/
def requestHex (r : Request) : List Byte :=
  (List.range 33).map fun k => hexDigit (BitVec.ofNat 4 (r.toNat / 16 ^ (32 - k)))

/-- The value of one hexadecimal digit. -/
def digitValue (c : Char) : Option Nat :=
  let n := c.toNat
  if 0x30 ≤ n ∧ n ≤ 0x39 then some (n - 0x30)
  else if 0x61 ≤ n ∧ n ≤ 0x66 then some (n - 0x61 + 10)
  else if 0x41 ≤ n ∧ n ≤ 0x46 then some (n - 0x41 + 10)
  else none

/-- Digits of a number in a base; underscores are allowed between them (R91). -/
def parseDigits (base acc : Nat) : List Char → Option Nat
  | [] => some acc
  | c :: rest =>
    if c = '_' then parseDigits base acc rest
    else
      match digitValue c with
      | none => none
      | some d => if d < base then parseDigits base (acc * base + d) rest else none

/-- A number, decimal or with `0x` hexadecimal (R91). -/
def parseNumber : List Char → Option Nat
  | '0' :: 'x' :: c :: rest => if c = '_' then none else parseDigits 16 0 (c :: rest)
  | c :: rest => if c = '_' then none else parseDigits 10 0 (c :: rest)
  | [] => none

/-- What separates the tokens of a line. -/
def isSeparator (c : Char) : Bool := c == ' ' || c == ',' || c == '\t'

/-- The tokens of a line; a semicolon starts a comment (R91). `cur` is the token being read, reversed. -/
def tokensOf (cur : List Char) : List Char → List (List Char)
  | [] => if cur.isEmpty then [] else [cur.reverse]
  | c :: rest =>
    if c = ';' then (if cur.isEmpty then [] else [cur.reverse])
    else if isSeparator c then
      (if cur.isEmpty then tokensOf [] rest else cur.reverse :: tokensOf [] rest)
    else tokensOf (c :: cur) rest

/-- The numbers of a line's operands, each below a bound. -/
def parseOperands (bound : Nat) : List (List Char) → Option (List Nat)
  | [] => some []
  | tok :: rest =>
    match parseNumber tok, parseOperands bound rest with
    | some n, some ns => if n < bound then some (n :: ns) else none
    | _, _ => none

/-- What a line of text holds. -/
inductive AsmResult where
  | blank
  | line (l : AsmLine)
  | malformed
deriving DecidableEq, Repr

/-- One line of text (R91, R92). -/
def parseAsm (cs : List Char) : AsmResult :=
  match tokensOf [] cs with
  | [] => .blank
  | op :: args =>
    if op = ['e', 'n', 'c', '4'] then
      match parseOperands (2 ^ 32) args with
      | some [x] => .line (.enc4 (BitVec.ofNat 32 x))
      | _ => .malformed
    else if op = ['e', 'n', 'c', '6'] then
      match parseOperands (2 ^ 32) args with
      | some [a, b, c, d] =>
        .line (.enc6 ⟨BitVec.ofNat 32 a, BitVec.ofNat 32 b, BitVec.ofNat 32 c, BitVec.ofNat 32 d⟩)
      | _ => .malformed
    else if op = ['e', 'n', 'c', '4', '.', 'o'] then
      match parseOperands (2 ^ 8) args with
      | some [a, b, c, d] =>
        .line (.enc4o (BitVec.ofNat 8 a) (BitVec.ofNat 8 b) (BitVec.ofNat 8 c) (BitVec.ofNat 8 d))
      | _ => .malformed
    else if op = ['e', 'n', 'c', '6', '.', 'g'] then
      match parseOperands (2 ^ 16) args with
      | some [a, b, c, d, e, f, g, h] =>
        .line (.enc6g (BitVec.ofNat 16 a) (BitVec.ofNat 16 b) (BitVec.ofNat 16 c) (BitVec.ofNat 16 d)
          (BitVec.ofNat 16 e) (BitVec.ofNat 16 f) (BitVec.ofNat 16 g) (BitVec.ofNat 16 h))
      | _ => .malformed
    else if op = ['e', 'n', 'c', '6', '.', 'x'] then
      match parseOperands (2 ^ 128) args with
      | some [a] => .line (.enc6x (BitVec.ofNat 128 a))
      | _ => .malformed
    else if op = ['r', 'e', 's', 'e', 't'] then
      if args.isEmpty then .line .reset else .malformed
    else if op = ['s', 'i', 'n', 'k', '.', 's', 't', 'a', 'l', 'l'] then
      match args with
      | [n] =>
        match parseNumber n with
        | some k => .line (.sinkStall k)
        | none => .malformed
      | _ => .malformed
    else if op = ['s', 'i', 'n', 'k', '.', 'f', 'a', 'i', 'l'] then
      match args with
      | [w, n] =>
        match decide (w = ['a', 't']), parseNumber n with
        | true, some k => .line (.sinkFail k 0)
        | _, _ => .malformed
      | [w, n, v, c] =>
        match decide (w = ['a', 't'] ∧ v = ['c', 'o', 'd', 'e']), parseNumber n, parseNumber c with
        | true, some k, some d => .line (.sinkFail k d)
        | _, _, _ => .malformed
      | _ => .malformed
    else .malformed

end Sys2Proof.Machine
end

