-- ==== Sys2Proof/Machine/Ports.lean ====
section
/-! DEFINITION. The block's output ports, functions of its state (R33 to R36), and what the record of events says of
a program's run (R257). -/

namespace Sys2Proof.Machine

/-- `req_ready = (PH = IDLE) and not rst` (R33). -/
def reqReady (s : State) (rst : Bool) : Bool := (s.ph == .idle) && !rst

/-- `snk_valid` (R34). -/
def snkValid (s : State) : Bool := s.ph == .emit

/-- The beat on the sink port, `{snk_last, snk_byte}` (R34, R82); absent while `snk_valid = 0`, when its levels
are unspecified (93 U5; log 17). -/
def snkBeat (s : State) : Option (BitVec 9) :=
  if snkValid s then some (BitVec.ofBool (lastOnOffer s) ++ byteOnOffer s) else none

/-- `cpl_valid` (R35). -/
def cplValid (s : State) : Bool := s.cpl.isSome

/-- The completion, `{cpl_fail, cpl_code}` (R83); absent while `cpl_valid = 0`, when its levels are
unspecified (93 U6; log 17). -/
def cplWord (s : State) : Option (BitVec (1 + Config.sinkErrW)) :=
  s.cpl.map fun c => BitVec.ofBool c.fail ++ c.code

/-- The debug port as one word, packed as R90 fixes it; its fields are the registers of R36. -/
def dbgWord (s : State) : BitVec 37 :=
  BitVec.ofBool s.dv ++ phaseCode s.ph ++ opCode s.op ++ famCode s.fam ++ s.gs ++ s.ge ++ tagCode s.t.t0 ++
    tagCode s.t.t1 ++ tagCode s.t.t2 ++ tagCode s.t.t3 ++ s.olen ++ s.optr

/-- The bytes appended to the sink: those of the `Byte` events, under the sink discipline of R249 (R257; 93 U9;
log 10). -/
def sinkContents (events : List Event) : List Byte :=
  events.filterMap fun v =>
    match v with
    | .byte b _ => some b
    | .accept _ _ => none
    | .fail _ => none
    | .done _ _ => none
    | .reset => none

/-- The completions of a record of events, in order (R257). -/
def completionsOf (events : List Event) : List Completion :=
  events.filterMap fun v =>
    match v with
    | .done f c => some ⟨f, c⟩
    | .accept _ _ => none
    | .byte _ _ => none
    | .fail _ => none
    | .reset => none

/-- The events a run from `s` to `t` added: the record only grows (R58). -/
def eventsOfRun (s t : State) : List Event := t.events.drop s.events.length

/-- The requests a record says were accepted, in order (R57, R192). -/
def acceptedOf (events : List Event) : List Request :=
  events.filterMap fun v =>
    match v with
    | .accept op a => some (packRequest (opCode op) a)
    | .byte _ _ => none
    | .fail _ => none
    | .done _ _ => none
    | .reset => none

/-- Whether a request is still open after an event, given whether one was before it: it opens at `Accept` and ends
at `Done` or is cut off at `Reset` (R216, R241). -/
def openAfter (wasOpen : Bool) (v : Event) : Bool :=
  match v with
  | .accept _ _ => true
  | .byte _ _ => wasOpen
  | .fail _ => wasOpen
  | .done _ _ => false
  | .reset => false

/-- Whether the last request a record says was accepted has neither completed nor been cut off (R257). -/
def requestOpen (events : List Event) : Bool := events.foldl openAfter false

/-- A run of the program from `s` to `t` is over (R257): the requests it accepted are those of the program, in
order (log 21), each has completed or been cut off, and `PH = IDLE`. Edges of the script still to come do not
matter. -/
def runOver (program : List Request) (s t : State) : Bool :=
  acceptedOf (eventsOfRun s t) == program && !requestOpen (eventsOfRun s t) && t.ph == .idle

/-- The result of a run: its `Byte`, `Fail` and `Done` events (R257). -/
def resultOf (s t : State) : List Event :=
  (eventsOfRun s t).filter fun v =>
    match v with
    | .byte _ _ => true
    | .fail _ => true
    | .done _ _ => true
    | .accept _ _ => false
    | .reset => false

end Sys2Proof.Machine
end

