-- ==== Sys2Proof/Safety.lean ====
section
/-! DEFINITION. What a state of a run satisfies: the invariants that tie the registers together, and the shape of
the record of events. -/

namespace Sys2Proof.Machine

/-- The register invariants (R21, R24, R26, R27, R29, R37, R38). -/
structure RegsOk (s : State) : Prop where
  /-- Before the first accept step the block is as the reset step left it (R29, R42). -/
  fresh : s.dv = false → s.ph = .idle ∧ s.optr = 0
  /-- In phase EMIT a byte is on offer (R27). -/
  emitting : s.ph = .emit → s.optr.toNat < s.olen.toNat
  /-- In the completion cycle the block is in IDLE (R216). -/
  completing : s.cpl ≠ none → s.ph = .idle
  /-- `0 ≤ OPTR ≤ OLEN` (R27). -/
  pointer : s.dv = true → s.optr.toNat ≤ s.olen.toNat
  /-- `2 ≤ OLEN ≤ 39` (R26). -/
  length : s.dv = true → 2 ≤ s.olen.toNat ∧ s.olen.toNat ≤ 39
  /-- The gap is one of the 29 (R24). -/
  gapIn : s.dv = true → gapLegal ⟨s.gs, s.ge⟩ = true
  /-- `FAM = FAMILY(OP, W)` (R37). -/
  family : s.dv = true → s.fam = familyOf s.op s.w
  /-- `(GS, GE) = GAPFIND(G(0), .., G(7))` (R37). -/
  gap : s.dv = true → (⟨s.gs, s.ge⟩ : Gap) = gapFind s.w
  /-- `T[k] = CLASSIFY(k, GS, GE)` (R37). -/
  tags : s.dv = true → s.t = tagsOf ⟨s.gs, s.ge⟩
  /-- `OLEN` is the length of `TEXT(OP, W)` (R38). -/
  textLength : s.dv = true → s.olen.toNat = (textOf s.op s.w).length
  /-- `OB[0 .. OLEN-1] = TEXT(OP, W)` (R38). -/
  text : s.dv = true → ∀ i, i < s.olen.toNat → s.ob[i]? = (textOf s.op s.w)[i]?

/-- The events of a request of which the sink has taken `n` bytes, none of them the last (R58). -/
def partialEvents (op : Op) (w : Words) (n : Nat) : List Event :=
  .accept op (operandOf w) :: ((textOf op w).take n).map (Event.byte · false)

/-- The bytes of a whole string, the final one marked (R55, R58). -/
def stringEvents (str : List Byte) : List Event :=
  str.dropLast.map (Event.byte · false) ++ str.getLast?.toList.map (Event.byte · true)

/-- One finished stretch of a run (R58, R212, R241). -/
inductive Block : List Event → Prop where
  /-- A request delivered whole, then its completion (R55, R216). -/
  | whole (op : Op) (w : Words) :
    Block (.accept op (operandOf w) :: stringEvents (textOf op w) ++ [.done false 0])
  /-- A request the sink failed at byte `i` (R212, R214). -/
  | failed (op : Op) (w : Words) (i : Nat) (code : Config.SinkCode) (h : i < (textOf op w).length) :
    Block (partialEvents op w i ++ [.fail code, .done true code])
  /-- A request cut off by reset at byte `i`: no completion (R241). -/
  | cut (op : Op) (w : Words) (i : Nat) (h : i < (textOf op w).length) :
    Block (partialEvents op w i ++ [.reset])
  /-- A reset in phase IDLE (R240). -/
  | reset : Block [.reset]

/-- A sequence of finished stretches, nothing between them (R57, R58). -/
inductive Blocks : List Event → Prop where
  | none : Blocks []
  | add (l b : List Event) (hl : Blocks l) (hb : Block b) : Blocks (l ++ b)

/-- What the request in progress has produced so far; nothing in phase IDLE. -/
def openEvents (s : State) : List Event :=
  match s.ph with
  | .idle => []
  | .emit => partialEvents s.op s.w s.optr.toNat

/-- The record of events is finished stretches, then the request in progress (R56 to R58, R65). -/
def TraceOk (s : State) : Prop := ∃ l, Blocks l ∧ s.events = l ++ openEvents s

/-- A safe state: what every state of a run from reset satisfies. -/
structure Safe (s : State) : Prop where
  regs  : RegsOk s
  trace : TraceOk s

end Sys2Proof.Machine
end

