-- ==== Sys2Proof/Certificates/Slice0/Obligations.lean ====
section
/-! DEFINITION. The statements for the provers. Each docstring names the rules of spec/ it formalises; where a
clause rests on a choice of the model, it names the log entry. -/

namespace Sys2Proof

open Sys2Proof.Machine

/-- What accepting a request with operation `op`, words `w`, family `fam` and string `str` leaves, and what it
leaves alone (R192, R37). Past the string `OB` is a free value (log 5) and nothing is said of it. -/
structure AcceptEffect (op : Op) (w : Words) (fam : Family) (str : List Byte) (s t : State) : Prop where
  phase     : t.ph = .emit
  operation : t.op = op
  operand   : t.w = w
  family    : t.fam = fam
  gap       : (⟨t.gs, t.ge⟩ : Gap) = gapFind w
  tags      : t.t = tagsOf (gapFind w)
  length    : t.olen.toNat = str.length
  buffer    : ∀ i, i < str.length → t.ob[i]? = str[i]?
  pointer   : t.optr = 0
  valid     : t.dv = true
  record    : t.events = s.events ++ [.accept op (operandOf w)]
  inputs    : t.script = s.script
  pulse     : t.cpl = s.cpl

/-- Every register but `PH` and `OPTR` is unchanged (R38, R39). -/
structure DataKept (s t : State) : Prop where
  operation : t.op = s.op
  operand   : t.w = s.w
  family    : t.fam = s.fam
  gapStart  : t.gs = s.gs
  gapEnd    : t.ge = s.ge
  tags      : t.t = s.t
  buffer    : t.ob = s.ob
  length    : t.olen = s.olen
  valid     : t.dv = s.dv

/-- The group at index `i` exists and is zero (R128). -/
def GroupIsZero (w : Words) (i : Nat) : Prop := (groupsOf w)[i]? = some 0

/-- `[s, e)` is a zero run of the eight groups (R125). -/
def IsZeroRun (w : Words) (s e : Nat) : Prop :=
  s < e ∧ e ≤ 8 ∧ (∀ i, s ≤ i → i < e → GroupIsZero w i) ∧ (s = 0 ∨ ¬ GroupIsZero w (s - 1)) ∧
    (e = 8 ∨ ¬ GroupIsZero w e)

/-- R148's table: gap, then the tags of the four words. -/
def classificationTable : List (Gap × Tags) :=
  [(⟨0, 0⟩, ⟨.hl, .chl, .chl, .chl⟩), (⟨0, 2⟩, ⟨.col, .chl, .chl, .chl⟩), (⟨0, 3⟩, ⟨.col, .clo, .chl, .chl⟩),
   (⟨0, 4⟩, ⟨.col, .nop, .chl, .chl⟩), (⟨0, 5⟩, ⟨.col, .nop, .clo, .chl⟩), (⟨0, 6⟩, ⟨.col, .nop, .nop, .chl⟩),
   (⟨0, 7⟩, ⟨.col, .nop, .nop, .clo⟩), (⟨0, 8⟩, ⟨.col, .nop, .nop, .col⟩)] ++
  [(⟨1, 3⟩, ⟨.hc, .clo, .chl, .chl⟩), (⟨1, 4⟩, ⟨.hc, .nop, .chl, .chl⟩), (⟨1, 5⟩, ⟨.hc, .nop, .clo, .chl⟩),
   (⟨1, 6⟩, ⟨.hc, .nop, .nop, .chl⟩), (⟨1, 7⟩, ⟨.hc, .nop, .nop, .clo⟩), (⟨1, 8⟩, ⟨.hc, .nop, .nop, .col⟩)] ++
  [(⟨2, 4⟩, ⟨.hl, .col, .chl, .chl⟩), (⟨2, 5⟩, ⟨.hl, .col, .clo, .chl⟩), (⟨2, 6⟩, ⟨.hl, .col, .nop, .chl⟩),
   (⟨2, 7⟩, ⟨.hl, .col, .nop, .clo⟩), (⟨2, 8⟩, ⟨.hl, .col, .nop, .col⟩)] ++
  [(⟨3, 5⟩, ⟨.hl, .chc, .clo, .chl⟩), (⟨3, 6⟩, ⟨.hl, .chc, .nop, .chl⟩), (⟨3, 7⟩, ⟨.hl, .chc, .nop, .clo⟩),
   (⟨3, 8⟩, ⟨.hl, .chc, .nop, .col⟩)] ++
  [(⟨4, 6⟩, ⟨.hl, .chl, .col, .chl⟩), (⟨4, 7⟩, ⟨.hl, .chl, .col, .clo⟩), (⟨4, 8⟩, ⟨.hl, .chl, .col, .col⟩),
   (⟨5, 7⟩, ⟨.hl, .chl, .chc, .clo⟩), (⟨5, 8⟩, ⟨.hl, .chl, .chc, .col⟩), (⟨6, 8⟩, ⟨.hl, .chl, .chl, .cc⟩)]

/-- A gap is present (R122, R143). -/
def gapPresent (g : Gap) : Bool := g.stop != 0

/-- What group `i`, of value `v`, sends under the gap `g` (the body of R143's loop). -/
def groupEmission (g : Gap) (v : Group) (i : Nat) : List Byte :=
  (if gapPresent g ∧ i = g.start.toNat then [colon] else []) ++
    (if gapPresent g ∧ g.start.toNat ≤ i ∧ i < g.stop.toNat then []
     else (if 0 < i then [colon] else []) ++ hex16 v)

/-- The generic text group by group (R143). -/
def groupwiseText (w : Words) : List Byte :=
  (groupsOf w).zipIdx.flatMap (fun p => groupEmission (gapFind w) p.1 p.2) ++
    (if gapPresent (gapFind w) ∧ (gapFind w).stop.toNat = 8 then [colon] else [])

/-- Groups in hexadecimal, joined by colons (R88). -/
def joinGroups (gs : List Group) : List Byte := [colon].intercalate (gs.map hex16)

/-- The generic text of the output grammar (R88). -/
def grammarText (w : Words) : List Byte :=
  if gapPresent (gapFind w) then
    joinGroups ((groupsOf w).take (gapFind w).start.toNat) ++ [colon, colon] ++
      joinGroups ((groupsOf w).drop (gapFind w).stop.toNat)
  else joinGroups (groupsOf w)

/-- At how many places a text has two colons in a row. -/
def doubleColons : List Byte → Nat
  | a :: b :: rest => (if a = colon ∧ b = colon then 1 else 0) + doubleColons (b :: rest)
  | [_] => 0
  | [] => 0

/-- The events of one edge, by the priority of R218 (R58). -/
def edgeEvents (s : State) : List Event :=
  if (edgeOf s).rst = true then [.reset]
  else if s.ph = .emit then
    if (edgeOf s).snkFail = true then [.fail (edgeOf s).snkCode, .done true (edgeOf s).snkCode]
    else if (edgeOf s).snkReady = true then
      if s.optr.toNat + 1 = s.olen.toNat then [.byte (byteOnOffer s) true, .done false 0]
      else [.byte (byteOnOffer s) false]
    else []
  else if (edgeOf s).reqValid = true then [.accept (opOfBit (edgeOf s).reqOp) (edgeOf s).reqA]
  else []

/-- No reset and no failure at this edge: the sink takes the byte or stalls. -/
def Machine.Edge.calm (e : Edge) : Prop := e.rst = false ∧ e.snkFail = false

/-- The operation an edge's request port shows. -/
def Machine.Edge.op (e : Edge) : Op := opOfBit e.reqOp

/-- The words an edge's request port shows. -/
def Machine.Edge.words (e : Edge) : Words := wordsOf e.reqA

/-- The string of the request an edge's request port shows. -/
def Machine.Edge.text (e : Edge) : List Byte := textOf e.op e.words

/-- The value a hexadecimal digit character stands for (R85). -/
def hexValue (b : Byte) : Nat := if b.toNat ≤ 0x39 then b.toNat - 0x30 else b.toNat - 0x57

end Sys2Proof

open Sys2Proof Sys2Proof.Machine

/-! ### Requests and their encoding -/

/-- Words written out from R70, R91 and 95_test_vectors decode to the requests they stand for. -/
def Obligations.SampleWordsDecode : Prop :=
  decode 0x0000000000000000000000000c0a80101 = .enc4 0 0xc0a80101 ∧
  decode 0x0ffffffffffffffffffffffffc0a80101 = .enc4 0xffffffffffffffffffffffff 0xc0a80101 ∧
  decodeOp 0x120010db8000000000000000000000001 = .enc6 ⟨0x20010db8, 0, 0, 1⟩ ∧
  decode 0x120010db8000000000000000000000001 = .enc6Generic ⟨0x20010db8, 0, 0, 1⟩ ∧
  decode 0x100000000000000000000ffff01020304 = .enc6Mapped 0x01020304 ∧
  decode 0x100000000000000000000ffff00000000 = .enc6Mapped 0 ∧
  decode 0x100000000000000000000000000010000 = .enc6Compat 0x00010000 ∧
  decode 0x10000000000000000000000000000ffff = .enc6Generic ⟨0, 0, 0, 0x0000ffff⟩

/-- R71, R72, R73: the words, groups and octets of an operand are the bit slices named there. -/
def Obligations.OperandFieldsAreBigEndianSlices : Prop :=
  (∀ (a : Operand) (j : Nat), j < 32 →
    (wordsOf a).w0.getLsbD j = a.getLsbD (96 + j) ∧ (wordsOf a).w1.getLsbD j = a.getLsbD (64 + j) ∧
    (wordsOf a).w2.getLsbD j = a.getLsbD (32 + j) ∧ (wordsOf a).w3.getLsbD j = a.getLsbD j) ∧
  (∀ (a : Operand) (i j : Nat) (g : Group), (groupsOf (wordsOf a))[i]? = some g → j < 16 →
    g.getLsbD j = a.getLsbD (112 - 16 * i + j)) ∧
  (∀ (w : Words), groupsOf w =
    [hiOf w.w0, loOf w.w0, hiOf w.w1, loOf w.w1, hiOf w.w2, loOf w.w2, hiOf w.w3, loOf w.w3]) ∧
  (∀ (a : Operand), (groupsOf (wordsOf a)).length = 8 ∧ operandOf (wordsOf a) = a) ∧
  (∀ (x : Word) (i j : Nat) (o : Byte), (octetsOf x)[i]? = some o → j < 8 →
    o.getLsbD j = x.getLsbD (24 - 8 * i + j)) ∧
  (∀ (x : Word), (octetsOf x).length = 4) ∧
  octetsOf 0x01020304 = [1, 2, 3, 4] ∧ octetsOf 0x00010203 = [0, 1, 2, 3]

/-- R70, R94: decoding the encoding of a well-formed request gives it back at the level of decoding it belongs
to; of `enc6`, the second level gives its sub-case (log 1). -/
def Obligations.DecodeOfEncodeIsTheInstruction : Prop :=
  ∀ i : Instr, i.wellFormed = true →
    decode (encode i) = refineCase i ∧ (i.refined = true → decode (encode i) = i) ∧
    (∀ ign x, i = .enc4 ign x → decodeOp (encode i) = i) ∧ (∀ w, i = .enc6 w → decodeOp (encode i) = i)

/-- R76, R94: every one of the 2^129 requests is legal and has exactly one meaning, and none is rejected. That the
one meaning is counted among the refined instructions, and that the decoder answers a refined one, is the model's
choice (log 1): `enc6` and its sub-case have the same encoding. -/
def Obligations.EveryRequestHasExactlyOneMeaning : Prop :=
  ∀ r : Request,
    (∃! i : Instr, i.wellFormed = true ∧ i.refined = true ∧ encode i = r) ∧
    encode (decode r) = r ∧ (decode r).wellFormed = true ∧ (decode r).refined = true ∧
    decodeBits r.toNat = .ok (decode r)

/-- R74: `op = 0` selects ENC4, `op = 1` selects ENC6, and nothing else is selected. -/
def Obligations.OperationBitSelectsTheOperation : Prop :=
  ∀ r : Request,
    (reqOpBit r = 0 → ∃ ign x, decode r = .enc4 ign x) ∧
    (reqOpBit r = 1 → ∃ w, decodeOp r = .enc6 w ∧ (decode r).op = .enc6) ∧
    (reqOpBit r = 0 ∨ reqOpBit r = 1)

/-- R181, R182, R183: the three family predicates, their expanded forms, and that they partition the operands. -/
def Obligations.FamilyPredicatesPartition : Prop :=
  ∀ w : Words,
    (isMapped w = true ↔ w.w0 = 0 ∧ w.w1 = 0 ∧ w.w2 = 0x0000ffff) ∧
    (isCompat w = true ↔ w.w0 = 0 ∧ w.w1 = 0 ∧ w.w2 = 0 ∧ 0xffff < w.w3.toNat) ∧
    (isCompat w = true ↔ w.w0 = 0 ∧ w.w1 = 0 ∧ w.w2 = 0 ∧ hiOf w.w3 ≠ 0) ∧
    (isGeneric w = true ↔
      w.w0 ≠ 0 ∨ w.w1 ≠ 0 ∨ (w.w2 ≠ 0x0000ffff ∧ (w.w2 ≠ 0 ∨ w.w3.toNat ≤ 0xffff))) ∧
    (isGeneric w = true ↔ isMapped w = false ∧ isCompat w = false) ∧
    ¬ (isMapped w = true ∧ isCompat w = true)

/-- R184: the family code of a request. -/
def Obligations.FamilyOfARequest : Prop :=
  ∀ w : Words,
    familyOf .enc4 w = .v4 ∧
    (isMapped w = true → familyOf .enc6 w = .mapped) ∧
    (isCompat w = true → familyOf .enc6 w = .compat) ∧
    (isGeneric w = true → familyOf .enc6 w = .generic) ∧
    famCode .v4 = 0 ∧ famCode .generic = 1 ∧ famCode .mapped = 2 ∧ famCode .compat = 3

/-- R94, R186 to R190: running ENC6 is running the sub-case the second level of decoding makes of it. -/
def Obligations.SubCasesRefineEnc6 : Prop :=
  ∀ (w : Words) (s : State), exec (.enc6 w) s = exec (refineCase (.enc6 w)) s

/-! ### What accepting a request does, per instruction -/

/-- R106, R75, R37: in phase IDLE, ENC4 completes with the string V4TEXT of `a[31:0]`, for all operands and
whatever the ignored bits; nothing else changes. -/
def Obligations.Enc4IsAccepted : Prop :=
  ∀ (ign : BitVec 96) (x : Word) (s : State), s.ph = .idle →
    ∃ t, exec (.enc4 ign x) s = .next t ∧
      AcceptEffect .enc4 (wordsOf (ign ++ x)) .v4 (v4Text x) s t

/-- R186, R184, R37: in phase IDLE, ENC6 completes, for all operands, with the family and string of its
operand; nothing else changes. -/
def Obligations.Enc6IsAccepted : Prop :=
  ∀ (w : Words) (s : State), s.ph = .idle →
    ∃ t, exec (.enc6 w) s = .next t ∧
      AcceptEffect .enc6 w (if isMapped w then .mapped else if isCompat w then .compat else .generic)
        (if isMapped w then [0x3A, 0x3A, 0x66, 0x66, 0x66, 0x66, 0x3A] ++ v4Text w.w3
         else if isCompat w then [0x3A, 0x3A] ++ v4Text w.w3 else genText w) s t

/-- R188: in phase IDLE, ENC6.MAPPED completes with the literal "::ffff:" and V4TEXT of `w3`. -/
def Obligations.Enc6MappedIsAccepted : Prop :=
  ∀ (w3 : Word) (s : State), s.ph = .idle →
    ∃ t, exec (.enc6Mapped w3) s = .next t ∧
      AcceptEffect .enc6 ⟨0, 0, 0x0000ffff, w3⟩ .mapped ([0x3A, 0x3A, 0x66, 0x66, 0x66, 0x66, 0x3A] ++ v4Text w3) s t

/-- R189: in phase IDLE, ENC6.COMPAT completes with the literal "::" and V4TEXT of `w3`. -/
def Obligations.Enc6CompatIsAccepted : Prop :=
  ∀ (w3 : Word) (s : State), s.ph = .idle →
    ∃ t, exec (.enc6Compat w3) s = .next t ∧
      AcceptEffect .enc6 ⟨0, 0, 0, w3⟩ .compat ([0x3A, 0x3A] ++ v4Text w3) s t

/-- R187: in phase IDLE, ENC6.GENERIC completes with GENTEXT of its words. -/
def Obligations.Enc6GenericIsAccepted : Prop :=
  ∀ (w : Words) (s : State), s.ph = .idle →
    ∃ t, exec (.enc6Generic w) s = .next t ∧ AcceptEffect .enc6 w .generic (genText w) s t

/-- R195: in phase EMIT a request on offer is neither accepted nor remembered (log 16). -/
def Obligations.RequestsWaitWhileBusy : Prop :=
  ∀ (i : Instr) (s : State), s.ph = .emit → exec i s = .next s ∧ ∀ rst, reqReady s rst = false

/-- R75: the bits `a[127:32]` of ENC4 do not affect the string, and are latched all the same. -/
def Obligations.IgnoredBitsDoNotAffectTheString : Prop :=
  ∀ (ign ign' : BitVec 96) (x : Word) (s : State), s.ph = .idle →
    ∃ t t', exec (.enc4 ign x) s = .next t ∧ exec (.enc4 ign' x) s = .next t' ∧
      t.olen = t'.olen ∧ (∀ i, i < t.olen.toNat → t.ob[i]? = t'.ob[i]?) ∧
      operandOf t.w = ign ++ x ∧ operandOf t'.w = ign' ++ x

/-! ### One edge -/

/-- R33, R94: an edge of phase IDLE that offers a request runs what the decoder reads from the request port,
after the edge's inputs are used up and the completion pulse has ended (log 2, log 9). -/
def Obligations.StepRunsTheDecodedRequest : Prop :=
  ∀ s : State, s.ph = .idle → (edgeOf s).rst = false → (edgeOf s).reqValid = true →
    step s = exec (decode ((edgeOf s).reqOp ++ (edgeOf s).reqA)) (tick s) ∧
    tick s = { s with script := s.script.tail, cpl := none }

/-- R192: the accept step. -/
def Obligations.AcceptStep : Prop :=
  ∀ s : State, s.ph = .idle → (edgeOf s).rst = false → (edgeOf s).reqValid = true →
    ∃ t, step s = .next t ∧
      AcceptEffect (edgeOf s).op (edgeOf s).words (familyOf (edgeOf s).op (edgeOf s).words) (edgeOf s).text
        (tick s) t ∧
      t.events = s.events ++ [.accept (edgeOf s).op (edgeOf s).reqA] ∧ t.cpl = none

/-- R215, R76: no state and no input stops the machine. -/
def Obligations.EveryEdgeCompletes : Prop := ∀ s : State, ∃ t, step s = .next t

/-- R218, R58: the events of one edge follow the input priority. -/
def Obligations.InputPriorityDecidesTheEvents : Prop :=
  ∀ s : State, ∃ t, step s = .next t ∧ t.events = s.events ++ edgeEvents s ∧ t.script = s.script.tail

/-- R53: a stalled beat, and R218 row 6: an edge with nothing to do, change no register. -/
def Obligations.StallAndIdleChangeNothing : Prop :=
  ∀ s : State, (edgeOf s).rst = false →
    ((s.ph = .emit ∧ (edgeOf s).snkFail = false ∧ (edgeOf s).snkReady = false) ∨
      (s.ph = .idle ∧ (edgeOf s).reqValid = false)) →
    ∃ t, step s = .next t ∧ t.ph = s.ph ∧ t.optr = s.optr ∧ DataKept s t ∧ t.events = s.events ∧
      t.cpl = none ∧ t.draws = s.draws

/-- R54: a byte that is not the last is delivered. -/
def Obligations.DeliverAByteThatIsNotTheLast : Prop :=
  ∀ (s : State) (b : Byte), s.ph = .emit → (edgeOf s).rst = false → (edgeOf s).snkFail = false →
    (edgeOf s).snkReady = true → s.optr.toNat + 1 < s.olen.toNat → s.ob[s.optr.toNat]? = some b →
    ∃ t, step s = .next t ∧ t.events = s.events ++ [.byte b false] ∧ t.optr.toNat = s.optr.toNat + 1 ∧
      t.ph = .emit ∧ t.cpl = none ∧ DataKept s t

/-- R55: the last byte is delivered and the request completes. -/
def Obligations.DeliverTheLastByte : Prop :=
  ∀ (s : State) (b : Byte), s.ph = .emit → (edgeOf s).rst = false → (edgeOf s).snkFail = false →
    (edgeOf s).snkReady = true → s.optr.toNat + 1 = s.olen.toNat → s.ob[s.optr.toNat]? = some b →
    ∃ t, step s = .next t ∧ t.events = s.events ++ [.byte b true, .done false 0] ∧ t.optr = s.olen ∧
      t.ph = .idle ∧ t.cpl = some ⟨false, 0⟩ ∧ DataKept s t

/-- R212: the abort step, even if `snk_ready = 1` (R218). -/
def Obligations.AbortOnSinkFailure : Prop :=
  ∀ s : State, s.ph = .emit → (edgeOf s).rst = false → (edgeOf s).snkFail = true →
    ∃ t, step s = .next t ∧
      t.events = s.events ++ [.fail (edgeOf s).snkCode, .done true (edgeOf s).snkCode] ∧ t.optr = s.optr ∧
      t.ph = .idle ∧ t.cpl = some ⟨true, (edgeOf s).snkCode⟩ ∧ DataKept s t

/-- R240: the reset step, whatever the phase and the other inputs are. -/
def Obligations.ResetStepFromAnyState : Prop :=
  ∀ s : State, (edgeOf s).rst = true →
    ∃ t, step s = .next t ∧ t.ph = .idle ∧ t.optr = 0 ∧ t.dv = false ∧ t.events = s.events ++ [.reset] ∧
      snkValid t = false ∧ cplValid t = false ∧ reqReady s true = false ∧ reqReady t false = true

/-- R42: the values the spec gives the state after reset, and the outputs after it. -/
def Obligations.ResetStateHasTheSpecifiedValues : Prop :=
  State.reset.ph = .idle ∧ State.reset.optr = 0 ∧ State.reset.dv = false ∧
    reqReady State.reset false = true ∧ snkValid State.reset = false ∧ cplValid State.reset = false ∧
    (dbgWord State.reset).getLsbD 36 = false ∧ (dbgWord State.reset).getLsbD 35 = false ∧
    BitVec.extractLsb' 0 6 (dbgWord State.reset) = 0

/-! ### Which steps write which registers -/

/-- R21: IDLE to EMIT only by the accept step, EMIT to IDLE only by the last byte, a failure or reset. -/
def Obligations.PhaseChangesOnlyAsStated : Prop :=
  ∀ s t : State, step s = .next t →
    (s.ph = .idle → t.ph = .emit →
      (edgeOf s).rst = false ∧ (edgeOf s).reqValid = true ∧
        t.events = s.events ++ [.accept (edgeOf s).op (edgeOf s).reqA]) ∧
    (s.ph = .emit → t.ph = .idle →
      t.events = s.events ++ [.reset] ∨
        t.events = s.events ++ [.fail (edgeOf s).snkCode, .done true (edgeOf s).snkCode] ∨
        (s.optr.toNat + 1 = s.olen.toNat ∧
          t.events = s.events ++ [.byte (byteOnOffer s) true, .done false 0]))

/-- R38, R39: between two accept steps, and without a reset, no step changes the operand latch, the stage
registers or the buffer. -/
def Obligations.OnlyAcceptAndResetWriteTheData : Prop :=
  ∀ s t : State, step s = .next t → (edgeOf s).rst = false →
    ¬ (s.ph = .idle ∧ (edgeOf s).reqValid = true) → DataKept s t

/-- R29: `DV` is 0 after reset, 1 after every accept step, and otherwise unchanged. -/
def Obligations.DebugValidBit : Prop :=
  ∀ s t : State, step s = .next t →
    t.dv = (if (edgeOf s).rst then false
      else if s.ph = .idle ∧ (edgeOf s).reqValid = true then true else s.dv)

/-- R28: `OPTR` advances by exactly 1 per delivered byte, goes to 0 by accept and reset, and never wraps. -/
def Obligations.PointerAdvancesByOneAndNeverWraps : Prop :=
  ∀ s t : State, RegsOk s → step s = .next t →
    t.optr.toNat =
      (if (edgeOf s).rst then 0
       else if s.ph = .emit then
         (if (edgeOf s).snkFail = false ∧ (edgeOf s).snkReady = true then s.optr.toNat + 1 else s.optr.toNat)
       else if (edgeOf s).reqValid then 0 else s.optr.toNat)

/-- R35, R216: the completion pulse is there in exactly the cycle after the edge that ended a request, with that
request's report, and the block is then ready. -/
def Obligations.CompletionPulseFollowsTheEndOfARequest : Prop :=
  ∀ s t : State, step s = .next t →
    (∀ f c, t.cpl = some ⟨f, c⟩ ↔ ∃ v, t.events = s.events ++ [v, .done f c]) ∧
    (cplValid t = true → reqReady t false = true)

/-- R40: the accept step reads no old register: two blocks in any two IDLE states that accept the same request
agree afterwards on every register, `OB` up to `OLEN` (log 5). -/
def Obligations.AcceptReadsNoOldRegister : Prop :=
  ∀ s s' : State, s.ph = .idle → s'.ph = .idle → edgeOf s = edgeOf s' → (edgeOf s).rst = false →
    (edgeOf s).reqValid = true →
    ∃ t t', step s = .next t ∧ step s' = .next t' ∧ t.ph = t'.ph ∧ t.op = t'.op ∧ t.w = t'.w ∧ t.fam = t'.fam ∧
      t.gs = t'.gs ∧ t.ge = t'.ge ∧ t.t = t'.t ∧ t.olen = t'.olen ∧ t.optr = t'.optr ∧ t.dv = t'.dv ∧
      (∀ i, i < t.olen.toNat → t.ob[i]? = t'.ob[i]?)

/-- R195, R218, R248: in phase EMIT the request port is not sampled. -/
def Obligations.EmitIgnoresTheRequestPort : Prop :=
  ∀ (s : State) (e e' : Edge) (rest : List Edge), s.ph = .emit → e.rst = e'.rst → e.snkReady = e'.snkReady →
    e.snkFail = e'.snkFail → e.snkCode = e'.snkCode →
    step { s with script := e :: rest } = step { s with script := e' :: rest }

/-- R218, R249: in phase IDLE the sink's inputs are ignored. -/
def Obligations.IdleIgnoresTheSinkPort : Prop :=
  ∀ (s : State) (e e' : Edge) (rest : List Edge), s.ph = .idle → e.rst = e'.rst → e.reqValid = e'.reqValid →
    e.reqOp = e'.reqOp → e.reqA = e'.reqA →
    step { s with script := e :: rest } = step { s with script := e' :: rest }

/-! ### The text functions -/

/-- R101: length, first digit, value and injectivity of DEC8. -/
def Obligations.DecimalDigitsOfAnOctet : Prop :=
  (∀ v : Byte,
    (dec8 v).length = (if v.toNat ≤ 9 then 1 else if v.toNat ≤ 99 then 2 else 3) ∧
    ((dec8 v).head? = some 0x30 → v = 0) ∧
    (dec8 v).foldl (fun n b => 10 * n + (b.toNat - 0x30)) 0 = v.toNat) ∧
  (∀ v v' : Byte, dec8 v = dec8 v' → v = v')

/-- R103: the form of V4TEXT, octets most significant first. R104: its length and injectivity; every length from 7
to 15 occurs. -/
def Obligations.DottedDecimalLengthAndInjectivity : Prop :=
  (∀ x : Word,
    v4Text x =
      dec8 (BitVec.extractLsb' 24 8 x) ++ [0x2E] ++ dec8 (BitVec.extractLsb' 16 8 x) ++ [0x2E] ++
        dec8 (BitVec.extractLsb' 8 8 x) ++ [0x2E] ++ dec8 (BitVec.extractLsb' 0 8 x)) ∧
  (∀ x : Word,
    (v4Text x).length = 3 + ((octetsOf x).map fun o => (dec8 o).length).sum ∧
    7 ≤ (v4Text x).length ∧ (v4Text x).length ≤ 15) ∧
  (∀ n, 7 ≤ n → n ≤ 15 → ∃ x, (v4Text x).length = n) ∧
  (∀ x x' : Word, v4Text x = v4Text x' → x = x')

/-- R141: length, first digit, value and injectivity of HEX16. -/
def Obligations.HexDigitsOfAGroup : Prop :=
  (∀ v : Group,
    (hex16 v).length =
      (if v.toNat ≤ 0xf then 1 else if v.toNat ≤ 0xff then 2 else if v.toNat ≤ 0xfff then 3 else 4) ∧
    ((hex16 v).head? = some 0x30 → v = 0) ∧
    (hex16 v).foldl (fun n b => 16 * n + hexValue b) 0 = v.toNat) ∧
  (∀ v v' : Group, hex16 v = hex16 v' → v = v')

/-- R125, R123: the gap finder returns the leftmost longest zero run of at least two groups, or no gap. -/
def Obligations.GapIsTheLeftmostLongestZeroRun : Prop :=
  ∀ w : Words,
    ((∀ s e, IsZeroRun w s e → e < s + 2) → gapFind w = ⟨0, 0⟩) ∧
    (∀ s e, IsZeroRun w s e → s + 2 ≤ e →
      IsZeroRun w (gapFind w).start.toNat (gapFind w).stop.toNat ∧
      e - s ≤ (gapFind w).stop.toNat - (gapFind w).start.toNat ∧
      (e - s = (gapFind w).stop.toNat - (gapFind w).start.toNat → (gapFind w).start.toNat ≤ s))

/-- R127: the gap finder has exactly 29 results, and every one of them is reached. -/
def Obligations.GapFinderHasExactly29Results : Prop :=
  (∀ g : Gap, (∃ w, gapFind w = g) ↔
    g = ⟨0, 0⟩ ∨ (g.start.toNat + 2 ≤ g.stop.toNat ∧ g.stop.toNat ≤ 8)) ∧
  classificationTable.length = 29 ∧
  (∀ g : Gap, gapLegal g = true ↔ g ∈ classificationTable.map (·.1))

/-- R128: only zero-ness of each group matters to the gap finder. -/
def Obligations.OnlyZeronessMattersToTheGap : Prop :=
  ∀ w w' : Words, (∀ i, GroupIsZero w i ↔ GroupIsZero w' i) → gapFind w = gapFind w'

/-- R148: the tags of the four words for each of the 29 gaps. -/
def Obligations.ClassificationTableOfAllGaps : Prop :=
  ∀ p ∈ classificationTable, tagsOf p.1 = p.2

/-- R149: which tags can occur at which word, and that every tag occurs. -/
def Obligations.TagsThatCanOccurAtEachWord : Prop :=
  (∀ w : Words,
    (tagsOf (gapFind w)).t0 ∈ [Tag.hl, .hc, .col] ∧
    (tagsOf (gapFind w)).t1 ∈ [Tag.chl, .chc, .col, .nop, .clo] ∧
    (tagsOf (gapFind w)).t2 ∈ [Tag.chl, .chc, .col, .nop, .clo] ∧
    (tagsOf (gapFind w)).t3 ∈ [Tag.chl, .cc, .col, .clo] ∧
    ((tagsOf (gapFind w)).t3 = .cc → gapFind w = ⟨6, 8⟩)) ∧
  (∀ t : Tag, ∃ (w : Words) (k : Fin 4), classify k (gapFind w) = t)

/-- R163 to R168: what a tag says of the word it is chosen for. -/
def Obligations.TagsFitTheWordsTheyAreChosenFor : Prop :=
  ∀ (w : Words) (k : Fin 4) (x : Word),
    [w.w0, w.w1, w.w2, w.w3][k.val]? = some x →
    (classify k (gapFind w) ∈ [Tag.nop, .col, .cc] → x = 0) ∧
    (classify k (gapFind w) = .clo → hiOf x = 0 ∧ loOf x ≠ 0) ∧
    (classify k (gapFind w) ∈ [Tag.chc, .hc] → hiOf x ≠ 0 ∧ loOf x = 0)

/-- R169: the text the tags produce word by word is the text of the output grammar (R88) and the text of the
group-by-group emission (R143), for every operand. -/
def Obligations.GenericTextMeetsTheGrammar : Prop :=
  ∀ w : Words,
    genText w = emitTag (classify 0 (gapFind w)) w.w0 ++ emitTag (classify 1 (gapFind w)) w.w1 ++
      emitTag (classify 2 (gapFind w)) w.w2 ++ emitTag (classify 3 (gapFind w)) w.w3 ∧
    genText w = grammarText w ∧ genText w = groupwiseText w

/-- R153: exactly one "::" if and only if a gap is present, never three colons in a row, and no text starts or
ends with a single colon. -/
def Obligations.OneDoubleColonIffAGap : Prop :=
  ∀ w : Words,
    doubleColons (genText w) = (if gapFind w = ⟨0, 0⟩ then 0 else 1) ∧
    ((genText w).head? = some colon → (genText w)[1]? = some colon) ∧
    ((genText w).getLast? = some colon → (genText w).dropLast.getLast? = some colon)

/-- R187: a generic operand never has the gap (0, 6). -/
def Obligations.GenericOperandNeverHasGapZeroSix : Prop :=
  ∀ w : Words, isGeneric w = true → gapFind w ≠ ⟨0, 6⟩

/-- R198: the length of the string by family; the bounds are attained. -/
def Obligations.StringLengthByFamily : Prop :=
  (∀ (op : Op) (w : Words),
    2 ≤ (textOf op w).length ∧ (textOf op w).length ≤ 39 ∧
    (familyOf op w = .v4 → 7 ≤ (textOf op w).length ∧ (textOf op w).length ≤ 15) ∧
    (familyOf op w = .mapped → 14 ≤ (textOf op w).length ∧ (textOf op w).length ≤ 22) ∧
    (familyOf op w = .compat → 9 ≤ (textOf op w).length ∧ (textOf op w).length ≤ 17)) ∧
  (∃ w, familyOf .enc6 w = .generic ∧ (textOf .enc6 w).length = 2) ∧
  (∃ w, familyOf .enc6 w = .generic ∧ (textOf .enc6 w).length = 39) ∧
  (∃ w, familyOf .enc4 w = .v4 ∧ (textOf .enc4 w).length = 7) ∧
  (∃ w, familyOf .enc4 w = .v4 ∧ (textOf .enc4 w).length = 15) ∧
  (∃ w, familyOf .enc6 w = .mapped ∧ (textOf .enc6 w).length = 14) ∧
  (∃ w, familyOf .enc6 w = .mapped ∧ (textOf .enc6 w).length = 22) ∧
  (∃ w, familyOf .enc6 w = .compat ∧ (textOf .enc6 w).length = 9) ∧
  (∃ w, familyOf .enc6 w = .compat ∧ (textOf .enc6 w).length = 17)

/-- R84, R107: the block emits no other than the 18 characters; an ENC4 string has no colon and no letter, a
generic string no dot. The numeric codes are PRESUMED (log 15). -/
def Obligations.OnlyTheEighteenCharacters : Prop :=
  (∀ (op : Op) (w : Words), ∀ b ∈ textOf op w, b ∈ outputChars) ∧
  (∀ w : Words, ∀ b ∈ textOf .enc4 w, b = dot ∨ (0x30 ≤ b.toNat ∧ b.toNat ≤ 0x39)) ∧
  (∀ w : Words, isGeneric w = true → dot ∉ textOf .enc6 w)

/-- R199: one string per address. ENC6 is injective on its operands and ENC4 on `a[31:0]`, the forms of the
families tell them apart, and no ENC4 string is an ENC6 string. -/
def Obligations.OneStringPerAddress : Prop :=
  (∀ w w' : Words, textOf .enc6 w = textOf .enc6 w' → w = w') ∧
  (∀ w w' : Words, textOf .enc4 w = textOf .enc4 w' → w.w3 = w'.w3) ∧
  (∀ w : Words, isGeneric w = true → dot ∉ textOf .enc6 w) ∧
  (∀ w : Words, isMapped w = true →
    [0x3A, 0x3A, 0x66, 0x66, 0x66, 0x66, 0x3A] <+: textOf .enc6 w ∧ dot ∈ textOf .enc6 w) ∧
  (∀ w : Words, isCompat w = true →
    (∃ d : Byte, 0x30 ≤ d.toNat ∧ d.toNat ≤ 0x39 ∧ [0x3A, 0x3A, d] <+: textOf .enc6 w) ∧ dot ∈ textOf .enc6 w) ∧
  (∀ w : Words, colon ∉ textOf .enc4 w) ∧
  (∀ w w' : Words, textOf .enc4 w ≠ textOf .enc6 w')

/-- R191, R194: the emission mux, driven by the stage registers, gives the string in the buffer, and reads the
tags in the row GENERIC only. -/
def Obligations.EmissionMuxGivesTheBufferedString : Prop :=
  (∀ s : State, RegsOk s → s.dv = true →
    s.olen.toNat = (muxText s.fam s.t s.w).length ∧
    ∀ i, i < s.olen.toNat → s.ob[i]? = (muxText s.fam s.t s.w)[i]?) ∧
  (∀ (fam : Family) (t t' : Tags) (w : Words), fam ≠ .generic → muxText fam t w = muxText fam t' w)

/-! ### Invariants -/

/-- The state after reset is safe. -/
def Obligations.ResetStateIsSafe : Prop := Safe State.reset

/-- R24, R26, R27, R37, R38: every step, from every state that meets the register invariants, keeps them. -/
def Obligations.EveryStepKeepsTheRegisterInvariants : Prop :=
  ∀ s t : State, RegsOk s → step s = .next t → RegsOk t

/-- R56, R57, R58, R214, R216, R241: the record of events stays a sequence of finished requests, failed requests,
requests cut by reset and resets, followed by the request in progress. -/
def Obligations.EveryStepKeepsTheShapeOfTheTrace : Prop :=
  ∀ s t : State, RegsOk s → TraceOk s → step s = .next t → TraceOk t

/-! ### Whole requests -/

/-- R55, R56, R58, R252: a request whose sink takes every byte, after any finite number of stalls each, is
delivered whole, in order, and completes; the requester may do anything meanwhile. -/
def Obligations.AFairSinkGetsTheWholeString : Prop :=
  ∀ (s : State) (e : Edge) (es rest : List Edge),
    s.ph = .idle → e.rst = false → e.reqValid = true → s.script = e :: (es ++ rest) →
    (∀ x ∈ es, x.calm) → es.countP (·.snkReady) = e.text.length →
    (∃ x, es.getLast? = some x ∧ x.snkReady = true) →
    ∃ t : State, Host.Core.run Sys2Proof.core (es.length + 1) s = .next t ∧
      t.events = s.events ++ .accept e.op e.reqA :: stringEvents e.text ++ [.done false 0] ∧
      sinkContents t.events = sinkContents s.events ++ e.text ∧
      t.ph = .idle ∧ t.optr = t.olen ∧ t.cpl = some ⟨false, 0⟩ ∧ t.script = rest

/-- R212, R213, R214: a request the sink fails at byte `i` ends there: exactly the bytes before it were
delivered, the code is reported unchanged, and the registers still describe the request. -/
def Obligations.ASinkFailureEndsTheRequestPrecisely : Prop :=
  ∀ (s : State) (e f : Edge) (es rest : List Edge),
    s.ph = .idle → e.rst = false → e.reqValid = true → s.script = e :: (es ++ f :: rest) →
    (∀ x ∈ es, x.calm) → es.countP (·.snkReady) < e.text.length → f.rst = false → f.snkFail = true →
    ∃ t : State, Host.Core.run Sys2Proof.core (es.length + 2) s = .next t ∧
      t.events = s.events ++ partialEvents e.op e.words (es.countP (·.snkReady)) ++
        [.fail f.snkCode, .done true f.snkCode] ∧
      t.ph = .idle ∧ t.optr.toNat = es.countP (·.snkReady) ∧ t.cpl = some ⟨true, f.snkCode⟩ ∧ t.op = e.op ∧
      t.w = e.words ∧ t.fam = familyOf e.op e.words ∧ (⟨t.gs, t.ge⟩ : Gap) = gapFind e.words ∧
      t.t = tagsOf (gapFind e.words) ∧ t.olen.toNat = e.text.length ∧ t.dv = true ∧ t.script = rest

/-- R241: a request cut off by reset keeps the bytes already taken, delivers no more, and has no completion. -/
def Obligations.AResetCutsTheRequestWithoutCompletion : Prop :=
  ∀ (s : State) (e f : Edge) (es rest : List Edge),
    s.ph = .idle → e.rst = false → e.reqValid = true → s.script = e :: (es ++ f :: rest) →
    (∀ x ∈ es, x.calm) → es.countP (·.snkReady) < e.text.length → f.rst = true →
    ∃ t : State, Host.Core.run Sys2Proof.core (es.length + 2) s = .next t ∧
      t.events = s.events ++ partialEvents e.op e.words (es.countP (·.snkReady)) ++ [.reset] ∧
      completionsOf t.events = completionsOf s.events ∧ t.ph = .idle ∧ t.optr = 0 ∧ t.dv = false ∧
      t.cpl = none ∧ t.script = rest

/-- R252, R253: a sink that stalls keeps the block in EMIT, whatever the requester does, for as long as it
stalls. -/
def Obligations.AStallingSinkHoldsTheBlock : Prop :=
  ∀ (s : State) (es rest : List Edge), s.ph = .emit → es ≠ [] → s.script = es ++ rest →
    (∀ x ∈ es, x.calm ∧ x.snkReady = false) →
    Host.Core.run Sys2Proof.core es.length s = .next { s with script := rest, cpl := none }

/-! ### Ports and notation -/

/-- R33, R34, R82: the ready output, and the beat on the sink port in phase EMIT: the next byte of the string,
marked last exactly at its end. That the beat is absent in phase IDLE is the model's choice: R34 leaves its levels
unspecified there (log 17). -/
def Obligations.SinkPortOffersTheNextByte : Prop :=
  ∀ s : State,
    (∀ rst, reqReady s rst = true ↔ s.ph = .idle ∧ rst = false) ∧
    (s.ph = .idle → snkValid s = false ∧ snkBeat s = none) ∧
    (RegsOk s → s.ph = .emit → s.dv = true ∧ snkValid s = true ∧
      ∃ b v, (textOf s.op s.w)[s.optr.toNat]? = some b ∧ snkBeat s = some v ∧ BitVec.extractLsb' 0 8 v = b ∧
        (v.getLsbD 8 = true ↔ s.optr.toNat + 1 = (textOf s.op s.w).length))

/-- R83: the completion word. -/
def Obligations.CompletionWordFields : Prop :=
  ∀ (s : State) (c : Completion), s.cpl = some c →
    ∃ v, cplWord s = some v ∧ v.getLsbD Config.sinkErrW = c.fail ∧
      BitVec.extractLsb' 0 Config.sinkErrW v = c.code

/-- R90, R36: the fields of the debug word, and the codes they show (R21, R74, R78, R80). -/
def Obligations.DebugWordFields : Prop :=
  (∀ s : State,
    (dbgWord s).getLsbD 36 = s.dv ∧ BitVec.extractLsb' 35 1 (dbgWord s) = phaseCode s.ph ∧
    BitVec.extractLsb' 34 1 (dbgWord s) = opCode s.op ∧ BitVec.extractLsb' 32 2 (dbgWord s) = famCode s.fam ∧
    BitVec.extractLsb' 28 4 (dbgWord s) = s.gs ∧ BitVec.extractLsb' 24 4 (dbgWord s) = s.ge ∧
    BitVec.extractLsb' 21 3 (dbgWord s) = tagCode s.t.t0 ∧ BitVec.extractLsb' 18 3 (dbgWord s) = tagCode s.t.t1 ∧
    BitVec.extractLsb' 15 3 (dbgWord s) = tagCode s.t.t2 ∧ BitVec.extractLsb' 12 3 (dbgWord s) = tagCode s.t.t3 ∧
    BitVec.extractLsb' 6 6 (dbgWord s) = s.olen ∧ BitVec.extractLsb' 0 6 (dbgWord s) = s.optr) ∧
  phaseCode .idle = 0 ∧ phaseCode .emit = 1 ∧ opCode .enc4 = 0 ∧ opCode .enc6 = 1 ∧
  famCode .v4 = 0 ∧ famCode .generic = 1 ∧ famCode .mapped = 2 ∧ famCode .compat = 3 ∧
  tagCode .chl = 0 ∧ tagCode .hl = 1 ∧ tagCode .nop = 2 ∧ tagCode .col = 3 ∧
  tagCode .clo = 4 ∧ tagCode .cc = 5 ∧ tagCode .chc = 6 ∧ tagCode .hc = 7

/-- R92: the pseudo-requests expand to the requests of their octets, groups or operand. -/
def Obligations.PseudoRequestsExpand : Prop :=
  (∀ o0 o1 o2 o3 : Byte, ∃ x, asmRequest (.enc4o o0 o1 o2 o3) = some (.enc4 0 x) ∧
    octetsOf x = [o0, o1, o2, o3]) ∧
  (∀ g0 g1 g2 g3 g4 g5 g6 g7 : Group, ∃ w, asmRequest (.enc6g g0 g1 g2 g3 g4 g5 g6 g7) = some (.enc6 w) ∧
    groupsOf w = [g0, g1, g2, g3, g4, g5, g6, g7]) ∧
  (∀ a : Operand, ∃ i, asmRequest (.enc6x a) = some i ∧ encode i = (1 : BitVec 1) ++ a)
end

