-- ==== Sys2Proof/Laws/Operands.lean ====
section
/-! SUPPORT. Packing and slicing a request undo one another. -/

namespace Sys2Proof.Machine

/-- Joining the four words of an operand gives it back (R38, R71). -/
theorem operandOf_wordsOf (a : Operand) : operandOf (wordsOf a) = a := by
  apply BitVec.eq_of_getLsbD_eq
  intro i hi
  simp only [operandOf, wordsOf, BitVec.getLsbD_append, BitVec.getLsbD_extractLsb']
  split
  · simp [*]
  · split
    · rw [show 32 + (i - 32) = i by omega]; simp; omega
    · split
      · rw [show 64 + (i - 32 - 32) = i by omega]; simp; omega
      · rw [show 96 + (i - 32 - 32 - 32) = i by omega]; simp; omega

/-- Slicing the operand of four words gives them back (R71). -/
theorem wordsOf_operandOf (w : Words) : wordsOf (operandOf w) = w := by
  cases w
  simp only [wordsOf, operandOf, Words.mk.injEq]
  refine ⟨?_, ?_, ?_, ?_⟩ <;> apply BitVec.eq_of_getLsbD_eq <;> intro i hi <;>
    simp only [BitVec.getLsbD_extractLsb', BitVec.getLsbD_append, hi, decide_true, Bool.true_and]
  · rw [if_neg (by omega), if_neg (by omega), if_neg (by omega)]; congr 1; omega
  · rw [if_neg (by omega), if_neg (by omega), if_pos (by omega)]; congr 1; omega
  · rw [if_neg (by omega), if_pos (by omega)]; congr 1; omega
  · rw [if_pos (by omega)]; congr 1; omega

/-- The bits of a packed request (R70). -/
theorem packRequest_bit (op : BitVec 1) (a : Operand) (i : Nat) :
    (packRequest op a).getLsbD i = if i < 128 then a.getLsbD i else op.getLsbD (i - 128) :=
  BitVec.getLsbD_append

/-- The operation bit of a packed request (R70). -/
@[simp] theorem reqOpBit_packRequest (op : BitVec 1) (a : Operand) : reqOpBit (packRequest op a) = op := by
  apply BitVec.eq_of_getLsbD_eq
  intro i hi
  rw [reqOpBit, BitVec.getLsbD_extractLsb', packRequest_bit, if_neg (by omega), decide_eq_true hi,
    Bool.true_and, Nat.add_sub_cancel_left]

/-- The operand of a packed request (R70). -/
@[simp] theorem reqOperand_packRequest (op : BitVec 1) (a : Operand) : reqOperand (packRequest op a) = a := by
  apply BitVec.eq_of_getLsbD_eq
  intro i hi
  rw [reqOperand, BitVec.getLsbD_extractLsb', packRequest_bit, if_pos (by omega), decide_eq_true hi,
    Bool.true_and, Nat.zero_add]

/-- Packing the two fields of a request gives it back (R70). -/
theorem packRequest_fields (r : Request) : packRequest (reqOpBit r) (reqOperand r) = r := by
  apply BitVec.eq_of_getLsbD_eq
  intro i hi
  simp only [packRequest_bit, reqOpBit, reqOperand, BitVec.getLsbD_extractLsb']
  split
  · simp [*]
  · rw [show 128 + (i - 128) = i by omega]; simp; omega

/-- The words an ENC4 latches are those of its operand (R75). -/
theorem enc4_words (ign : BitVec 96) (x : Word) : (Instr.enc4 ign x).words = wordsOf (ign ++ x) := by
  simp only [Instr.words, wordsOf, Words.mk.injEq]
  refine ⟨?_, ?_, ?_, ?_⟩ <;> apply BitVec.eq_of_getLsbD_eq <;> intro i hi <;>
    simp only [BitVec.getLsbD_extractLsb', BitVec.getLsbD_append, hi, decide_true, Bool.true_and]
  · rw [if_neg (by omega)]; congr 1; omega
  · rw [if_neg (by omega)]; congr 1; omega
  · rw [if_neg (by omega)]; congr 1; omega
  · rw [if_pos (by omega), Nat.zero_add]

end Sys2Proof.Machine
end

