-- ==== Sys2Proof/Laws/State.lean ====
section
/-! SUPPORT. One lemma per field per update of State: what each shared operation leaves in each field. -/

namespace Sys2Proof.Machine

variable (s : State)

@[simp] theorem tick_ph : (tick s).ph = s.ph := rfl
@[simp] theorem tick_op : (tick s).op = s.op := rfl
@[simp] theorem tick_w : (tick s).w = s.w := rfl
@[simp] theorem tick_fam : (tick s).fam = s.fam := rfl
@[simp] theorem tick_gs : (tick s).gs = s.gs := rfl
@[simp] theorem tick_ge : (tick s).ge = s.ge := rfl
@[simp] theorem tick_t : (tick s).t = s.t := rfl
@[simp] theorem tick_ob : (tick s).ob = s.ob := rfl
@[simp] theorem tick_olen : (tick s).olen = s.olen := rfl
@[simp] theorem tick_optr : (tick s).optr = s.optr := rfl
@[simp] theorem tick_dv : (tick s).dv = s.dv := rfl
@[simp] theorem tick_cpl : (tick s).cpl = none := rfl
@[simp] theorem tick_events : (tick s).events = s.events := rfl
@[simp] theorem tick_script : (tick s).script = s.script.tail := rfl
@[simp] theorem tick_draws : (tick s).draws = s.draws := rfl

@[simp] theorem emitEvent_ph (v : Event) : (emitEvent v s).ph = s.ph := rfl
@[simp] theorem emitEvent_op (v : Event) : (emitEvent v s).op = s.op := rfl
@[simp] theorem emitEvent_w (v : Event) : (emitEvent v s).w = s.w := rfl
@[simp] theorem emitEvent_fam (v : Event) : (emitEvent v s).fam = s.fam := rfl
@[simp] theorem emitEvent_gs (v : Event) : (emitEvent v s).gs = s.gs := rfl
@[simp] theorem emitEvent_ge (v : Event) : (emitEvent v s).ge = s.ge := rfl
@[simp] theorem emitEvent_t (v : Event) : (emitEvent v s).t = s.t := rfl
@[simp] theorem emitEvent_ob (v : Event) : (emitEvent v s).ob = s.ob := rfl
@[simp] theorem emitEvent_olen (v : Event) : (emitEvent v s).olen = s.olen := rfl
@[simp] theorem emitEvent_optr (v : Event) : (emitEvent v s).optr = s.optr := rfl
@[simp] theorem emitEvent_dv (v : Event) : (emitEvent v s).dv = s.dv := rfl
@[simp] theorem emitEvent_cpl (v : Event) : (emitEvent v s).cpl = s.cpl := rfl
@[simp] theorem emitEvent_events (v : Event) : (emitEvent v s).events = s.events ++ [v] := rfl
@[simp] theorem emitEvent_script (v : Event) : (emitEvent v s).script = s.script := rfl
@[simp] theorem emitEvent_draws (v : Event) : (emitEvent v s).draws = s.draws := rfl

@[simp] theorem accept_ph (op : Op) (w : Words) (fam : Family) (str : List Byte) :
    (accept op w fam str s).ph = .emit := rfl
@[simp] theorem accept_op (op : Op) (w : Words) (fam : Family) (str : List Byte) :
    (accept op w fam str s).op = op := rfl
@[simp] theorem accept_w (op : Op) (w : Words) (fam : Family) (str : List Byte) : (accept op w fam str s).w = w := rfl
@[simp] theorem accept_fam (op : Op) (w : Words) (fam : Family) (str : List Byte) :
    (accept op w fam str s).fam = fam := rfl
@[simp] theorem accept_gs (op : Op) (w : Words) (fam : Family) (str : List Byte) :
    (accept op w fam str s).gs = (gapFind w).start := rfl
@[simp] theorem accept_ge (op : Op) (w : Words) (fam : Family) (str : List Byte) :
    (accept op w fam str s).ge = (gapFind w).stop := rfl
@[simp] theorem accept_t (op : Op) (w : Words) (fam : Family) (str : List Byte) :
    (accept op w fam str s).t = tagsOf (gapFind w) := rfl
@[simp] theorem accept_ob (op : Op) (w : Words) (fam : Family) (str : List Byte) :
    (accept op w fam str s).ob = bufferOf str s.draws := rfl
@[simp] theorem accept_olen (op : Op) (w : Words) (fam : Family) (str : List Byte) :
    (accept op w fam str s).olen = BitVec.ofNat 6 str.length := rfl
@[simp] theorem accept_optr (op : Op) (w : Words) (fam : Family) (str : List Byte) :
    (accept op w fam str s).optr = 0 := rfl
@[simp] theorem accept_dv (op : Op) (w : Words) (fam : Family) (str : List Byte) :
    (accept op w fam str s).dv = true := rfl
@[simp] theorem accept_cpl (op : Op) (w : Words) (fam : Family) (str : List Byte) :
    (accept op w fam str s).cpl = s.cpl := rfl
@[simp] theorem accept_events (op : Op) (w : Words) (fam : Family) (str : List Byte) :
    (accept op w fam str s).events = s.events ++ [.accept op (operandOf w)] := rfl
@[simp] theorem accept_script (op : Op) (w : Words) (fam : Family) (str : List Byte) :
    (accept op w fam str s).script = s.script := rfl
@[simp] theorem accept_draws (op : Op) (w : Words) (fam : Family) (str : List Byte) :
    (accept op w fam str s).draws = s.draws + 1 := rfl

@[simp] theorem complete_ph (f : Bool) (c : Config.SinkCode) : (complete f c s).ph = s.ph := rfl
@[simp] theorem complete_op (f : Bool) (c : Config.SinkCode) : (complete f c s).op = s.op := rfl
@[simp] theorem complete_w (f : Bool) (c : Config.SinkCode) : (complete f c s).w = s.w := rfl
@[simp] theorem complete_fam (f : Bool) (c : Config.SinkCode) : (complete f c s).fam = s.fam := rfl
@[simp] theorem complete_gs (f : Bool) (c : Config.SinkCode) : (complete f c s).gs = s.gs := rfl
@[simp] theorem complete_ge (f : Bool) (c : Config.SinkCode) : (complete f c s).ge = s.ge := rfl
@[simp] theorem complete_t (f : Bool) (c : Config.SinkCode) : (complete f c s).t = s.t := rfl
@[simp] theorem complete_ob (f : Bool) (c : Config.SinkCode) : (complete f c s).ob = s.ob := rfl
@[simp] theorem complete_olen (f : Bool) (c : Config.SinkCode) : (complete f c s).olen = s.olen := rfl
@[simp] theorem complete_optr (f : Bool) (c : Config.SinkCode) : (complete f c s).optr = s.optr := rfl
@[simp] theorem complete_dv (f : Bool) (c : Config.SinkCode) : (complete f c s).dv = s.dv := rfl
@[simp] theorem complete_cpl (f : Bool) (c : Config.SinkCode) : (complete f c s).cpl = some ⟨f, c⟩ := rfl
@[simp] theorem complete_events (f : Bool) (c : Config.SinkCode) :
    (complete f c s).events = s.events ++ [.done f c] := rfl
@[simp] theorem complete_script (f : Bool) (c : Config.SinkCode) : (complete f c s).script = s.script := rfl
@[simp] theorem complete_draws (f : Bool) (c : Config.SinkCode) : (complete f c s).draws = s.draws := rfl

@[simp] theorem deliverMore_ph : (deliverMore s).ph = s.ph := rfl
@[simp] theorem deliverMore_op : (deliverMore s).op = s.op := rfl
@[simp] theorem deliverMore_w : (deliverMore s).w = s.w := rfl
@[simp] theorem deliverMore_fam : (deliverMore s).fam = s.fam := rfl
@[simp] theorem deliverMore_gs : (deliverMore s).gs = s.gs := rfl
@[simp] theorem deliverMore_ge : (deliverMore s).ge = s.ge := rfl
@[simp] theorem deliverMore_t : (deliverMore s).t = s.t := rfl
@[simp] theorem deliverMore_ob : (deliverMore s).ob = s.ob := rfl
@[simp] theorem deliverMore_olen : (deliverMore s).olen = s.olen := rfl
@[simp] theorem deliverMore_optr : (deliverMore s).optr = s.optr + 1 := rfl
@[simp] theorem deliverMore_dv : (deliverMore s).dv = s.dv := rfl
@[simp] theorem deliverMore_cpl : (deliverMore s).cpl = s.cpl := rfl
@[simp] theorem deliverMore_events : (deliverMore s).events = s.events ++ [.byte (byteOnOffer s) false] := rfl
@[simp] theorem deliverMore_script : (deliverMore s).script = s.script := rfl
@[simp] theorem deliverMore_draws : (deliverMore s).draws = s.draws := rfl

@[simp] theorem deliverLast_ph : (deliverLast s).ph = .idle := rfl
@[simp] theorem deliverLast_op : (deliverLast s).op = s.op := rfl
@[simp] theorem deliverLast_w : (deliverLast s).w = s.w := rfl
@[simp] theorem deliverLast_fam : (deliverLast s).fam = s.fam := rfl
@[simp] theorem deliverLast_gs : (deliverLast s).gs = s.gs := rfl
@[simp] theorem deliverLast_ge : (deliverLast s).ge = s.ge := rfl
@[simp] theorem deliverLast_t : (deliverLast s).t = s.t := rfl
@[simp] theorem deliverLast_ob : (deliverLast s).ob = s.ob := rfl
@[simp] theorem deliverLast_olen : (deliverLast s).olen = s.olen := rfl
@[simp] theorem deliverLast_optr : (deliverLast s).optr = s.olen := rfl
@[simp] theorem deliverLast_dv : (deliverLast s).dv = s.dv := rfl
@[simp] theorem deliverLast_cpl : (deliverLast s).cpl = some ⟨false, 0⟩ := rfl
@[simp] theorem deliverLast_events :
    (deliverLast s).events = s.events ++ [.byte (byteOnOffer s) true] ++ [.done false 0] := rfl
@[simp] theorem deliverLast_script : (deliverLast s).script = s.script := rfl
@[simp] theorem deliverLast_draws : (deliverLast s).draws = s.draws := rfl

@[simp] theorem abort_ph (c : Config.SinkCode) : (abort c s).ph = .idle := rfl
@[simp] theorem abort_op (c : Config.SinkCode) : (abort c s).op = s.op := rfl
@[simp] theorem abort_w (c : Config.SinkCode) : (abort c s).w = s.w := rfl
@[simp] theorem abort_fam (c : Config.SinkCode) : (abort c s).fam = s.fam := rfl
@[simp] theorem abort_gs (c : Config.SinkCode) : (abort c s).gs = s.gs := rfl
@[simp] theorem abort_ge (c : Config.SinkCode) : (abort c s).ge = s.ge := rfl
@[simp] theorem abort_t (c : Config.SinkCode) : (abort c s).t = s.t := rfl
@[simp] theorem abort_ob (c : Config.SinkCode) : (abort c s).ob = s.ob := rfl
@[simp] theorem abort_olen (c : Config.SinkCode) : (abort c s).olen = s.olen := rfl
@[simp] theorem abort_optr (c : Config.SinkCode) : (abort c s).optr = s.optr := rfl
@[simp] theorem abort_dv (c : Config.SinkCode) : (abort c s).dv = s.dv := rfl
@[simp] theorem abort_cpl (c : Config.SinkCode) : (abort c s).cpl = some ⟨true, c⟩ := rfl
@[simp] theorem abort_events (c : Config.SinkCode) :
    (abort c s).events = s.events ++ [.fail c] ++ [.done true c] := rfl
@[simp] theorem abort_script (c : Config.SinkCode) : (abort c s).script = s.script := rfl
@[simp] theorem abort_draws (c : Config.SinkCode) : (abort c s).draws = s.draws := rfl

@[simp] theorem resetStep_ph : (resetStep s).ph = .idle := rfl
@[simp] theorem resetStep_op : (resetStep s).op = Config.freeOp s.draws := rfl
@[simp] theorem resetStep_w : (resetStep s).w = Config.freeWords s.draws := rfl
@[simp] theorem resetStep_fam : (resetStep s).fam = Config.freeFam s.draws := rfl
@[simp] theorem resetStep_gs : (resetStep s).gs = Config.freeGs s.draws := rfl
@[simp] theorem resetStep_ge : (resetStep s).ge = Config.freeGe s.draws := rfl
@[simp] theorem resetStep_t : (resetStep s).t = Config.freeTags s.draws := rfl
@[simp] theorem resetStep_ob : (resetStep s).ob = Vector.ofFn fun i => Config.freeOb s.draws i.val := rfl
@[simp] theorem resetStep_olen : (resetStep s).olen = Config.freeOlen s.draws := rfl
@[simp] theorem resetStep_optr : (resetStep s).optr = 0 := rfl
@[simp] theorem resetStep_dv : (resetStep s).dv = false := rfl
@[simp] theorem resetStep_cpl : (resetStep s).cpl = none := rfl
@[simp] theorem resetStep_events : (resetStep s).events = s.events ++ [.reset] := rfl
@[simp] theorem resetStep_script : (resetStep s).script = s.script := rfl
@[simp] theorem resetStep_draws : (resetStep s).draws = s.draws + 1 := rfl

@[simp] theorem placeRequest_ph (r : Request) : (placeRequest s r).ph = .idle := rfl
@[simp] theorem placeRequest_op (r : Request) : (placeRequest s r).op = s.op := rfl
@[simp] theorem placeRequest_w (r : Request) : (placeRequest s r).w = s.w := rfl
@[simp] theorem placeRequest_fam (r : Request) : (placeRequest s r).fam = s.fam := rfl
@[simp] theorem placeRequest_gs (r : Request) : (placeRequest s r).gs = s.gs := rfl
@[simp] theorem placeRequest_ge (r : Request) : (placeRequest s r).ge = s.ge := rfl
@[simp] theorem placeRequest_t (r : Request) : (placeRequest s r).t = s.t := rfl
@[simp] theorem placeRequest_ob (r : Request) : (placeRequest s r).ob = s.ob := rfl
@[simp] theorem placeRequest_olen (r : Request) : (placeRequest s r).olen = s.olen := rfl
@[simp] theorem placeRequest_optr (r : Request) : (placeRequest s r).optr = s.optr := rfl
@[simp] theorem placeRequest_dv (r : Request) : (placeRequest s r).dv = s.dv := rfl
@[simp] theorem placeRequest_cpl (r : Request) : (placeRequest s r).cpl = s.cpl := rfl
@[simp] theorem placeRequest_events (r : Request) : (placeRequest s r).events = s.events := rfl
@[simp] theorem placeRequest_script (r : Request) :
    (placeRequest s r).script = ⟨false, true, reqOpBit r, reqOperand r, false, false, 0⟩ :: s.script := rfl
@[simp] theorem placeRequest_draws (r : Request) : (placeRequest s r).draws = s.draws := rfl

end Sys2Proof.Machine
end

