-- ==== Sys2Proof/Laws/Ops.lean ====
section
/-! SUPPORT. One lemma per shared operation, saying once everything it can do; later proofs cite these. -/

namespace Sys2Proof.Machine

/-- In phase IDLE a request on offer is accepted (R192). -/
theorem offer_idle (op : Op) (w : Words) (fam : Family) (str : List Byte) (s : State) (h : s.ph = .idle) :
    offer op w fam str s = .next (accept op w fam str s) := by
  simp [offer, h]

/-- In phase EMIT a request on offer changes nothing (R195). -/
theorem offer_emit (op : Op) (w : Words) (fam : Family) (str : List Byte) (s : State) (h : s.ph = .emit) :
    offer op w fam str s = .next s := by
  simp [offer, h]

/-- Everything an offered request can do. -/
theorem offer_cases (op : Op) (w : Words) (fam : Family) (str : List Byte) (s t : State)
    (h : offer op w fam str s = .next t) :
    (s.ph = .idle ∧ t = accept op w fam str s) ∨ (s.ph = .emit ∧ t = s) := by
  cases hp : s.ph with
  | idle => rw [offer_idle _ _ _ _ _ hp] at h; cases h; exact .inl ⟨rfl, rfl⟩
  | emit => rw [offer_emit _ _ _ _ _ hp] at h; cases h; exact .inr ⟨rfl, rfl⟩

/-- A taken byte is the last one or not (R54, R55). -/
theorem deliver_cases (s : State) :
    (s.optr.toNat + 1 = s.olen.toNat ∧ deliver s = deliverLast s) ∨
      (s.optr.toNat + 1 ≠ s.olen.toNat ∧ deliver s = deliverMore s) := by
  by_cases h : s.optr.toNat + 1 = s.olen.toNat
  · exact .inl ⟨h, by simp [deliver, lastOnOffer, h]⟩
  · exact .inr ⟨h, by simp [deliver, lastOnOffer, h]⟩

/-- The sink's answer, by its inputs: a failure wins over ready (R53). -/
theorem sinkAnswer_cases (e : Edge) :
    (e.snkFail = true ∧ sinkAnswer e = .failed e.snkCode) ∨
      (e.snkFail = false ∧ e.snkReady = true ∧ sinkAnswer e = .taken) ∨
      (e.snkFail = false ∧ e.snkReady = false ∧ sinkAnswer e = .stalled) := by
  cases hf : e.snkFail <;> cases hr : e.snkReady <;> simp [sinkAnswer, hf, hr]

/-- The next edge of a state whose script is written out. -/
@[simp] theorem edgeOf_cons (s : State) (e : Edge) (rest : List Edge) (h : s.script = e :: rest) :
    edgeOf s = e := by
  simp [edgeOf, h]

/-- Past the end of the script every input is low (log 2). -/
theorem edgeOf_nil (s : State) (h : s.script = []) : edgeOf s = quietEdge := by
  simp [edgeOf, h]

/-- An edge with `rst = 1` (R218 row 1). -/
theorem step_reset (s : State) (h : (edgeOf s).rst = true) : step s = .next (resetStep (tick s)) := by
  simp [step, edgeStep, h]

/-- An edge of phase EMIT (R218 rows 2 to 4). -/
theorem step_emit (s : State) (h : (edgeOf s).rst = false) (hp : s.ph = .emit) :
    step s = .next (beat (sinkAnswer (edgeOf s)) (tick s)) := by
  simp [step, edgeStep, h, hp]

/-- An edge of phase IDLE without a request (R218 row 6). -/
theorem step_quiet (s : State) (h : (edgeOf s).rst = false) (hp : s.ph = .idle)
    (hv : (edgeOf s).reqValid = false) : step s = .next (tick s) := by
  simp [step, edgeStep, h, hp, hv]

/-- Every instruction is one offer of its own words, family and string. -/
theorem exec_is_offer (i : Instr) (s : State) :
    ∃ fam str, exec i s = offer i.op i.words fam str s := by
  cases i <;> exact ⟨_, _, rfl⟩

/-- Everything an instruction can do. -/
theorem exec_cases (i : Instr) (s t : State) (h : exec i s = .next t) :
    (s.ph = .idle ∧ ∃ fam str, t = accept i.op i.words fam str s) ∨ (s.ph = .emit ∧ t = s) := by
  obtain ⟨fam, str, he⟩ := exec_is_offer i s
  rcases offer_cases _ _ _ _ _ _ (he ▸ h) with ⟨hp, ht⟩ | ⟨hp, ht⟩
  · exact .inl ⟨hp, fam, str, ht⟩
  · exact .inr ⟨hp, ht⟩

/-- A word of the ignored bits `a[127:32]` of ENC4 is a word of the operand (R71, R75). -/
theorem slice_of_ignored (a : Operand) (i : Nat) (h : i + 32 ≤ 96) :
    BitVec.extractLsb' i 32 (BitVec.extractLsb' 32 96 a) = BitVec.extractLsb' (i + 32) 32 a := by
  apply BitVec.eq_of_getLsbD_eq
  intro j hj
  have h1 : i + j < 96 := by omega
  simp [hj, h1, show 32 + (i + j) = i + 32 + j by omega]

/-- Running what the decoder reads from a request offers that request: its operation, its words, their family
and their string (R94, R190, R192). -/
theorem exec_decode (r : Request) (s : State) :
    exec (decode r) s =
      offer (opOfBit (reqOpBit r)) (wordsOf (reqOperand r))
        (familyOf (opOfBit (reqOpBit r)) (wordsOf (reqOperand r)))
        (textOf (opOfBit (reqOpBit r)) (wordsOf (reqOperand r))) s := by
  by_cases hop : reqOpBit r = 0
  · have hw : (Instr.enc4 (BitVec.extractLsb' 32 96 (reqOperand r)) (wordsOf (reqOperand r)).w3).words =
        wordsOf (reqOperand r) := by
      simp only [Instr.words, wordsOf, Words.mk.injEq]
      exact ⟨slice_of_ignored _ 64 (by decide), slice_of_ignored _ 32 (by decide),
        slice_of_ignored _ 0 (by decide), trivial⟩
    simp [decode, decodeOp, hop, refineCase, exec, execEnc4, hw, opOfBit, textOf, familyOf]
  · simp only [decode, decodeOp, hop, refineCase, opOfBit, if_false]
    generalize wordsOf (reqOperand r) = w
    by_cases hm : isMapped w = true
    · have hw : (Instr.enc6Mapped w.w3).words = w := by
        simp [isMapped] at hm; cases w; simp_all [Instr.words]
      simp [hm, exec, execEnc6Mapped, hw, textOf, familyOf]
    · by_cases hc : isCompat w = true
      · have hw : (Instr.enc6Compat w.w3).words = w := by
          simp [isCompat] at hc; cases w; simp_all [Instr.words]
        simp [hm, hc, exec, execEnc6Compat, hw, textOf, familyOf]
      · simp [hm, hc, exec, execEnc6Generic, textOf, familyOf]

/-- An edge of phase IDLE with a request on offer (R192, R218 row 5). -/
theorem step_accept (s : State) (h : (edgeOf s).rst = false) (hp : s.ph = .idle)
    (hv : (edgeOf s).reqValid = true) :
    step s = exec (decode (fetchRequest (edgeOf s))) (tick s) := by
  simp [step, edgeStep, h, hp, hv]

/-- Everything one edge can do: the rows of R218, in order. -/
theorem step_cases (s t : State) (h : step s = .next t) :
    ((edgeOf s).rst = true ∧ t = resetStep (tick s)) ∨
    ((edgeOf s).rst = false ∧ s.ph = .emit ∧ (edgeOf s).snkFail = true ∧ t = abort (edgeOf s).snkCode (tick s)) ∨
    ((edgeOf s).rst = false ∧ s.ph = .emit ∧ (edgeOf s).snkFail = false ∧ (edgeOf s).snkReady = true ∧
      ((s.optr.toNat + 1 = s.olen.toNat ∧ t = deliverLast (tick s)) ∨
        (s.optr.toNat + 1 ≠ s.olen.toNat ∧ t = deliverMore (tick s)))) ∨
    ((edgeOf s).rst = false ∧ s.ph = .emit ∧ (edgeOf s).snkFail = false ∧ (edgeOf s).snkReady = false ∧
      t = tick s) ∨
    ((edgeOf s).rst = false ∧ s.ph = .idle ∧ (edgeOf s).reqValid = true ∧ ∃ op w,
      op = opOfBit (reqOpBit (fetchRequest (edgeOf s))) ∧
      w = wordsOf (reqOperand (fetchRequest (edgeOf s))) ∧
      t = accept op w (familyOf op w) (textOf op w) (tick s)) ∨
    ((edgeOf s).rst = false ∧ s.ph = .idle ∧ (edgeOf s).reqValid = false ∧ t = tick s) := by
  cases hr : (edgeOf s).rst with
  | true => rw [step_reset s hr] at h; cases h; simp
  | false =>
    cases hp : s.ph with
    | emit =>
      rw [step_emit s hr hp] at h
      rcases sinkAnswer_cases (edgeOf s) with ⟨hf, ha⟩ | ⟨hf, hy, ha⟩ | ⟨hf, hy, ha⟩ <;> rw [ha] at h <;> cases h
      · simp [hf, beat]
      · rcases deliver_cases (tick s) with ⟨hl, hd⟩ | ⟨hl, hd⟩ <;> simp_all [beat]
      · simp [hf, hy, beat]
    | idle =>
      cases hv : (edgeOf s).reqValid with
      | false => rw [step_quiet s hr hp hv] at h; cases h; simp
      | true =>
        rw [step_accept s hr hp hv, exec_decode, offer_idle _ _ _ _ _ (by simpa using hp)] at h
        cases h; simp

/-- `OB[i]` for an index within the string (R26). -/
theorem bufferOf_get (str : List Byte) (n i : Nat) (h : i < str.length) (h39 : i < 39) :
    (bufferOf str n)[i]? = str[i]? := by
  simp [bufferOf, h, h39]

end Sys2Proof.Machine
end

