-- ==== Sys2Proof/Laws/PerInstr.lean ====
section
/-! SUPPORT. The family EncodeOp: what the encoding of every instruction holds in its operation field (R70,
R74). -/

/-- The operation field of the encoding selects the instruction's operation, and the operand field holds its
words. -/
def Sys2Proof.Laws.EncodeOp.Statement (i : Sys2Proof.Instr) : Prop :=
  Sys2Proof.Machine.opOfBit (Sys2Proof.Machine.reqOpBit (Sys2Proof.encode i)) = i.op ∧
    Sys2Proof.Machine.wordsOf (Sys2Proof.Machine.reqOperand (Sys2Proof.encode i)) = i.words

theorem Sys2Proof.Laws.EncodeOp.enc4 (ign : BitVec 96) (x : Sys2Proof.Word) :
    Sys2Proof.Laws.EncodeOp.Statement (.enc4 ign x) := by
  unfold Statement Sys2Proof.encode
  rw [Machine.reqOpBit_packRequest, Machine.reqOperand_packRequest, Machine.wordsOf_operandOf]
  exact ⟨rfl, rfl⟩

theorem Sys2Proof.Laws.EncodeOp.enc6 (w : Sys2Proof.Machine.Words) :
    Sys2Proof.Laws.EncodeOp.Statement (.enc6 w) := by
  unfold Statement Sys2Proof.encode
  rw [Machine.reqOpBit_packRequest, Machine.reqOperand_packRequest, Machine.wordsOf_operandOf]
  exact ⟨rfl, rfl⟩

theorem Sys2Proof.Laws.EncodeOp.enc6Mapped (w3 : Sys2Proof.Word) :
    Sys2Proof.Laws.EncodeOp.Statement (.enc6Mapped w3) := by
  unfold Statement Sys2Proof.encode
  rw [Machine.reqOpBit_packRequest, Machine.reqOperand_packRequest, Machine.wordsOf_operandOf]
  exact ⟨rfl, rfl⟩

theorem Sys2Proof.Laws.EncodeOp.enc6Compat (w3 : Sys2Proof.Word) :
    Sys2Proof.Laws.EncodeOp.Statement (.enc6Compat w3) := by
  unfold Statement Sys2Proof.encode
  rw [Machine.reqOpBit_packRequest, Machine.reqOperand_packRequest, Machine.wordsOf_operandOf]
  exact ⟨rfl, rfl⟩

theorem Sys2Proof.Laws.EncodeOp.enc6Generic (w : Sys2Proof.Machine.Words) :
    Sys2Proof.Laws.EncodeOp.Statement (.enc6Generic w) := by
  unfold Statement Sys2Proof.encode
  rw [Machine.reqOpBit_packRequest, Machine.reqOperand_packRequest, Machine.wordsOf_operandOf]
  exact ⟨rfl, rfl⟩
end

