-- ==== Sys2Proof/Laws/Run.lean ====
section
/-! SUPPORT. Runs of several edges, said over `State` and `step`, and what a record of events says of them. -/

namespace Sys2Proof.Machine

/-- A run begins with one step. -/
theorem run_succ (n : Nat) (s t : State) (h : step s = .next t) :
    Host.Core.run Sys2Proof.core (n + 1) s = Host.Core.run Sys2Proof.core n t := by
  have h' : Sys2Proof.core.step s = .next t := h
  simp only [Host.Core.run, h']

/-- No state and no input stops an edge, so every run of a state can go on. -/
theorem run_add (a b : Nat) (s t : State) (h : Host.Core.run Sys2Proof.core a s = .next t) :
    Host.Core.run Sys2Proof.core (a + b) s = Host.Core.run Sys2Proof.core b t := by
  induction a generalizing s with
  | zero =>
    have hst : s = t := by injection h
    subst hst
    rw [Nat.zero_add]
  | succ a ih =>
    cases hs : step s with
    | next u =>
      rw [run_succ _ _ _ hs] at h
      rw [show a + 1 + b = (a + b) + 1 by omega, run_succ _ _ _ hs]
      exact ih u h
    | fault r => exact nomatch r
    | refused r =>
      have h' : Sys2Proof.core.step s = .refused r := hs
      simp [Host.Core.run, h'] at h

/-- What a run added to the record. -/
theorem eventsOfRun_append (s t : State) (l : List Event) (h : t.events = s.events ++ l) : eventsOfRun s t = l := by
  simp [eventsOfRun, h]

/-- The acceptances of two records in a row. -/
theorem acceptedOf_append (l r : List Event) : acceptedOf (l ++ r) = acceptedOf l ++ acceptedOf r :=
  List.filterMap_append

/-- The bytes of two records in a row. -/
theorem sinkContents_append (l r : List Event) : sinkContents (l ++ r) = sinkContents l ++ sinkContents r :=
  List.filterMap_append

/-- The completions of two records in a row. -/
theorem completionsOf_append (l r : List Event) : completionsOf (l ++ r) = completionsOf l ++ completionsOf r :=
  List.filterMap_append

/-- Only the last event decides whether a request is open, given whether one was before it. -/
theorem requestOpen_concat (l : List Event) (v : Event) :
    requestOpen (l ++ [v]) = openAfter (requestOpen l) v := by
  simp [requestOpen]

/-- Everything a run being over says (R257). -/
theorem runOver_iff (program : List Request) (s t : State) :
    runOver program s t = true ↔
      acceptedOf (eventsOfRun s t) = program ∧ requestOpen (eventsOfRun s t) = false ∧ t.ph = .idle := by
  simp [runOver, and_assoc]

end Sys2Proof.Machine
end

