-- ==== Sys2Proof/Laws/Text.lean ====
section
/-! SUPPORT. What each tag sends, how long digits are, and that the gap finder stays within its 29 results. -/

namespace Sys2Proof.Machine

/-- R161. -/
@[simp] theorem emitTag_chl (w : Word) :
    emitTag .chl w = [colon] ++ hex16 (hiOf w) ++ [colon] ++ hex16 (loOf w) := rfl

/-- R162. -/
@[simp] theorem emitTag_hl (w : Word) : emitTag .hl w = hex16 (hiOf w) ++ [colon] ++ hex16 (loOf w) := rfl

/-- R163. -/
@[simp] theorem emitTag_nop (w : Word) : emitTag .nop w = [] := rfl

/-- R164. -/
@[simp] theorem emitTag_col (w : Word) : emitTag .col w = [colon] := rfl

/-- R165. -/
@[simp] theorem emitTag_clo (w : Word) : emitTag .clo w = [colon] ++ hex16 (loOf w) := rfl

/-- R166. -/
@[simp] theorem emitTag_cc (w : Word) : emitTag .cc w = [colon, colon] := rfl

/-- R167. -/
@[simp] theorem emitTag_chc (w : Word) : emitTag .chc w = [colon] ++ hex16 (hiOf w) ++ [colon] := rfl

/-- R168. -/
@[simp] theorem emitTag_hc (w : Word) : emitTag .hc w = hex16 (hiOf w) ++ [colon] := rfl

/-- An octet has one to three digits (R100). -/
theorem dec8_length_bounds (v : Byte) : 1 ≤ (dec8 v).length ∧ (dec8 v).length ≤ 3 := by
  unfold dec8
  dsimp only
  split <;> [simp; (split <;> simp)]

/-- A group has one to four digits (R140). -/
theorem hex16_length_bounds (v : Group) : 1 ≤ (hex16 v).length ∧ (hex16 v).length ≤ 4 := by
  unfold hex16
  dsimp only
  split <;> [simp; (split <;> [simp; (split <;> simp)])]

/-- A word sends at most ten bytes (R161 to R168). -/
theorem emitTag_length_le (t : Tag) (w : Word) : (emitTag t w).length ≤ 10 := by
  have a := hex16_length_bounds (hiOf w)
  have b := hex16_length_bounds (loOf w)
  cases t <;> simp <;> omega

/-- On every vector of eight zero-tests the gap finder gives one of its 29 results (R122). -/
theorem gapOfZeros_legal (zs : List Bool) (h : zs.length = 8) : gapLegal (gapOfZeros zs) = true := by
  match zs, h with
  | [a, b, c, d, e, f, g, i], _ => revert a b c d e f g i; decide

/-- The gap of an operand is one of the 29 (R24, R122). -/
theorem gapFind_legal (w : Words) : gapLegal (gapFind w) = true :=
  gapOfZeros_legal _ (by simp [zeroVector, groupsOf])

end Sys2Proof.Machine
end

