-- ==== Sys2Proof/Tests/Slice0.lean ====
section
/-! SUPPORT. Tests, with expected results from spec/95_test_vectors and the rules' own worked examples, and for each
statement with hypotheses a witness that meets them. -/

namespace Sys2Proof.Tests

open Sys2Proof.Machine

/-! ### Helpers -/

/-- A block that has latched the request `op`, `w`, has delivered `n` bytes of its string, and has `script` ahead. -/
def latched (op : Op) (w : Words) (ph : Phase) (n : BitVec 6) (script : List Edge) : State :=
  { State.reset with
    ph := ph
    op := op
    w := w
    fam := familyOf op w
    gs := (gapFind w).start
    ge := (gapFind w).stop
    t := tagsOf (gapFind w)
    ob := Vector.ofFn fun i => (textOf op w)[i.val]?.getD 0
    olen := BitVec.ofNat 6 (textOf op w).length
    optr := n
    dv := true
    script := script }

/-- `::1`, "::1" (S7). -/
def loopback : Words := ⟨0, 0, 0, 1⟩

/-- `2001:db8::2` (P3). -/
def docWords : Words := ⟨0x20010db8, 0, 0, 2⟩

/-- The block in phase EMIT, `n` bytes of "::1" taken, with `script` ahead. -/
def emitting (n : BitVec 6) (script : List Edge) : State := latched .enc6 loopback .emit n script

/-- The block after reset with `script` ahead. -/
def idle (script : List Edge) : State := { State.reset with script := script }

/-- An edge that offers `enc6 0, 0, 0, 1`. -/
def offerLoopback : Edge := offerEdge 0x100000000000000000000000000000001

/-- An edge at which the sink says ready and fail together (V6). -/
def readyAndFail : Edge := { takeEdge with snkFail := true }

/-- An edge with everything asserted. -/
def allHigh : Edge := ⟨true, true, 1, 1, true, true, 0⟩

/-! ### WellFormed -/

/-- R183: `w3 = 0xffff` is not COMPAT, `w3 = 0x10000` is. -/
theorem test_wellFormed_compat :
    (Instr.enc6Compat 0xffff).wellFormed = false ∧ (Instr.enc6Compat 0).wellFormed = false ∧
      (Instr.enc6Compat 0x10000).wellFormed = true := by decide

/-- R181: a mapped or compatible operand is not GENERIC. -/
theorem test_wellFormed_generic :
    (Instr.enc6Generic ⟨0, 0, 0xffff, 5⟩).wellFormed = false ∧
      (Instr.enc6Generic ⟨0, 0, 0, 0x10000⟩).wellFormed = false ∧
      (Instr.enc6Generic ⟨0, 0, 0, 0xffff⟩).wellFormed = true ∧
      (Instr.enc6Generic ⟨0, 1, 0xffff, 5⟩).wellFormed = true := by decide

/-! ### Decoding words written out from R70, R71, R91 -/

/-- ENC4: op 0, the ignored bits, then `x` (S5; 95 section 2.2, last row but one). -/
theorem test_decode_enc4 :
    decode 0b000000000000000000000000000000000000000000000000000000000000000000000000000000000000000000000000011000000101010000000000100000001#129
      = .enc4 0 0xc0a80101 ∧
    decode 0x0ffffffffffffffffffffffffc0a80101 = .enc4 0xffffffffffffffffffffffff 0xc0a80101 := by decide

/-- ENC6 at the first level of decoding (S10). -/
theorem test_decode_enc6 :
    decodeOp 0x120010db8000000000000000000000001 = .enc6 ⟨0x20010db8, 0, 0, 1⟩ ∧
    decodeOp 0x100000000000000000000ffff01020304 = .enc6 ⟨0, 0, 0xffff, 0x01020304⟩ := by decide

/-- ENC6.MAPPED: every `w3`, 0 too (R182, S8). -/
theorem test_decode_mapped :
    decode 0b100000000000000000000000000000000000000000000000000000000000000000000000000000000111111111111111100000001000000100000001100000100#129
      = .enc6Mapped 0x01020304 ∧
    decode 0x100000000000000000000ffff00000000 = .enc6Mapped 0 := by decide

/-- ENC6.COMPAT: exact at its boundary (R183, S9). -/
theorem test_decode_compat :
    decode 0x100000000000000000000000000010203 = .enc6Compat 0x00010203 ∧
    decode 0x100000000000000000000000000010000 = .enc6Compat 0x00010000 := by decide

/-- ENC6.GENERIC: the words in order; `w3 = 0xffff` falls here (R71, R183, S11). -/
theorem test_decode_generic :
    decode 0x100010000000200030004000500060007 = .enc6Generic ⟨0x00010000, 0x00020003, 0x00040005, 0x00060007⟩ ∧
    decode 0x10000000000000000000000000000ffff = .enc6Generic ⟨0, 0, 0, 0xffff⟩ := by decide

/-- A pattern wider than a request is rejected by name; 17 bytes, the first holding bits 7:0 (log 14). -/
theorem test_decode_bytes :
    decodeBits (2 ^ 129) = .error .widerThanRequest ∧
    decodeBytes [0x04, 0x03, 0x02, 0x01, 0xff, 0xff, 0, 0, 0, 0, 0, 0, 0, 0, 0, 0, 0x01]
      = .ok (.enc6Mapped 0x01020304) ∧
    decodeBytes [0, 0, 0, 0, 0, 0, 0, 0, 0, 0, 0, 0, 0, 0, 0, 0, 0x02] = .error .widerThanRequest := by decide

/-- The opcode table's own match words (spec/opcode_table.json). -/
theorem test_decode_table :
    decodeTableWord 129 0x000000000000000000000000000000000 = some (.enc4 0 0) ∧
    decodeTableWord 136 0x100000000000000000000ffff00000000 = some (.enc6Mapped 0) ∧
    decodeTableWord 136 0x100000000000000000000000000000000 = some (.enc6Generic ⟨0, 0, 0, 0⟩) := by decide

/-! ### The functions, by 95_test_vectors -/

/-- 95 section 2.1. -/
theorem test_dec8 :
    dec8 0 = [0x30] ∧ dec8 9 = [0x39] ∧ dec8 10 = [0x31, 0x30] ∧ dec8 99 = [0x39, 0x39] ∧
      dec8 100 = [0x31, 0x30, 0x30] ∧ dec8 101 = [0x31, 0x30, 0x31] ∧ dec8 249 = [0x32, 0x34, 0x39] := by decide

/-- 95 section 2.3. -/
theorem test_hex16 :
    hex16 0 = [0x30] ∧ hex16 0x000f = [0x66] ∧ hex16 0x0010 = [0x31, 0x30] ∧ hex16 0x00ab = [0x61, 0x62] ∧
      hex16 0x0db8 = [0x64, 0x62, 0x38] ∧ hex16 0x2001 = [0x32, 0x30, 0x30, 0x31] ∧
      hex16 0xa0b0 = [0x61, 0x30, 0x62, 0x30] ∧ hex16 0xfffe = [0x66, 0x66, 0x66, 0x65] := by decide

/-- 95 section 2.4: ties, edges, a longer later run. -/
theorem test_gapfind :
    gapFind ⟨0x00010000, 0x00020003, 0x00040005, 0x00060007⟩ = ⟨0, 0⟩ ∧
    gapFind ⟨0x00010000, 0x00000002, 0x00030000, 0x00000004⟩ = ⟨1, 3⟩ ∧
    gapFind ⟨0, 0x00010000, 0, 0x00020000⟩ = ⟨3, 6⟩ ∧
    gapFind ⟨0, 0x00000001, 0, 0⟩ = ⟨4, 8⟩ ∧
    gapFind ⟨0, 0, 0x00010000, 0⟩ = ⟨0, 4⟩ ∧
    gapFind ⟨1, 0x00000001, 0x00000000, 0x00000000⟩ = ⟨4, 8⟩ ∧
    gapFind ⟨0xffff0000, 0x0000ffff, 0, 0x0000ffff⟩ = ⟨4, 7⟩ := by decide

/-- The tags of S3, S8 and of gap (6, 8) (P4). -/
theorem test_classify :
    tagsOf ⟨3, 6⟩ = ⟨.hl, .chc, .nop, .chl⟩ ∧ tagsOf ⟨0, 5⟩ = ⟨.col, .nop, .clo, .chl⟩ ∧
      tagsOf ⟨6, 8⟩ = ⟨.hl, .chl, .chl, .cc⟩ := by decide

/-! ### One request each -/

/-- The registers of a latched request the tests compare, and its string. -/
structure Shown where
  ph   : Phase
  dv   : Bool
  fam  : Family
  gap  : Gap
  tags : Tags
  olen : BitVec 6
  str  : List Byte
deriving DecidableEq

/-- What an accepted request left. -/
def shownAfter (o : Host.Outcome State Fault Refusal) : Option Shown :=
  match o with
  | .next t => some ⟨t.ph, t.dv, t.fam, ⟨t.gs, t.ge⟩, t.t, t.olen, t.ob.toList.take t.olen.toNat⟩
  | .fault _ => none
  | .refused _ => none

/-- S5, with the stage registers of the whole latch: "192.168.1.1". -/
theorem test_enc4 :
    shownAfter (exec (.enc4 0 0xc0a80101) State.reset) =
      some ⟨.emit, true, .v4, ⟨0, 6⟩, ⟨.col, .nop, .nop, .chl⟩, 11,
        [0x31, 0x39, 0x32, 0x2E, 0x31, 0x36, 0x38, 0x2E, 0x31, 0x2E, 0x31]⟩ := by decide

/-- 95 section 2.2, last row: the ignored bits change the stage registers and no byte. -/
theorem test_enc4_ignored :
    shownAfter (exec (.enc4 0x20010db80000000000000000 0xc0a80101) State.reset) =
      some ⟨.emit, true, .v4, ⟨2, 6⟩, ⟨.hl, .col, .nop, .chl⟩, 11,
        [0x31, 0x39, 0x32, 0x2E, 0x31, 0x36, 0x38, 0x2E, 0x31, 0x2E, 0x31]⟩ := by decide

/-- S10: "2001:db8::1". -/
theorem test_enc6 :
    shownAfter (exec (.enc6 ⟨0x20010db8, 0, 0, 1⟩) State.reset) =
      some ⟨.emit, true, .generic, ⟨2, 7⟩, ⟨.hl, .col, .nop, .clo⟩, 11,
        [0x32, 0x30, 0x30, 0x31, 0x3A, 0x64, 0x62, 0x38, 0x3A, 0x3A, 0x31]⟩ := by decide

/-- S8 through the undivided operation: "::ffff:1.2.3.4", not "::ffff:102:304". -/
theorem test_enc6_mapped_operand :
    shownAfter (exec (.enc6 ⟨0, 0, 0xffff, 0x01020304⟩) State.reset) =
      some ⟨.emit, true, .mapped, ⟨0, 5⟩, ⟨.col, .nop, .clo, .chl⟩, 14,
        [0x3A, 0x3A, 0x66, 0x66, 0x66, 0x66, 0x3A, 0x31, 0x2E, 0x32, 0x2E, 0x33, 0x2E, 0x34]⟩ := by decide

/-- R185: "::ffff:0.0.0.0". -/
theorem test_mapped :
    shownAfter (exec (.enc6Mapped 0) State.reset) =
      some ⟨.emit, true, .mapped, ⟨0, 5⟩, ⟨.col, .nop, .clo, .chl⟩, 14,
        [0x3A, 0x3A, 0x66, 0x66, 0x66, 0x66, 0x3A, 0x30, 0x2E, 0x30, 0x2E, 0x30, 0x2E, 0x30]⟩ := by decide

/-- S9: "::0.1.2.3". -/
theorem test_compat :
    shownAfter (exec (.enc6Compat 0x00010203) State.reset) =
      some ⟨.emit, true, .compat, ⟨0, 6⟩, ⟨.col, .nop, .nop, .chl⟩, 9,
        [0x3A, 0x3A, 0x30, 0x2E, 0x31, 0x2E, 0x32, 0x2E, 0x33]⟩ := by decide

/-- S3: "0:0:1::2:0". -/
theorem test_generic :
    shownAfter (exec (.enc6Generic ⟨0, 0x00010000, 0, 0x00020000⟩) State.reset) =
      some ⟨.emit, true, .generic, ⟨3, 6⟩, ⟨.hl, .chc, .nop, .chl⟩, 10,
        [0x30, 0x3A, 0x30, 0x3A, 0x31, 0x3A, 0x3A, 0x32, 0x3A, 0x30]⟩ := by decide

/-- S11: a single zero group is not elided. -/
theorem test_generic_no_gap :
    shownAfter (exec (.enc6Generic ⟨0x00010000, 0x00020003, 0x00040005, 0x00060007⟩) State.reset) =
      some ⟨.emit, true, .generic, ⟨0, 0⟩, ⟨.hl, .chl, .chl, .chl⟩, 15,
        [0x31, 0x3A, 0x30, 0x3A, 0x32, 0x3A, 0x33, 0x3A, 0x34, 0x3A, 0x35, 0x3A, 0x36, 0x3A, 0x37]⟩ := by decide

/-- The host's entry: the very next step runs the request that was placed. -/
theorem test_withFetchWord :
    shownAfter (step (State.reset.withFetchWord 136 0x120010db8000000000000000000000001)) =
      shownAfter (exec (.enc6Generic ⟨0x20010db8, 0, 0, 1⟩) State.reset) := by decide

/-! ### One edge each, by 95 section 2.9 -/

/-- What the tests compare after an edge: phase, pointer, validity, the completion's cause, and how many events
there are. -/
structure EdgeShown where
  ph     : Phase
  optr   : BitVec 6
  dv     : Bool
  fail   : Option Bool
  events : Nat
deriving DecidableEq

/-- What an edge left. -/
def edgeShown (o : Host.Outcome State Fault Refusal) : Option EdgeShown :=
  match o with
  | .next t => some ⟨t.ph, t.optr, t.dv, t.cpl.map (·.fail), t.events.length⟩
  | .fault _ => none
  | .refused _ => none

/-- V1: the first byte, then the last one. -/
theorem test_edge_taken :
    edgeShown (step (emitting 0 [takeEdge])) = some ⟨.emit, 1, true, none, 1⟩ ∧
    edgeShown (step (emitting 2 [takeEdge])) = some ⟨.idle, 3, true, some false, 2⟩ := by decide

/-- V6: fail wins over ready, and the pointer stays. -/
theorem test_edge_failed :
    edgeShown (step (emitting 1 [readyAndFail])) = some ⟨.idle, 1, true, some true, 2⟩ := by decide

/-- V8, V11: reset wins over everything. -/
theorem test_edge_reset :
    edgeShown (step (emitting 1 [allHigh])) = some ⟨.idle, 0, false, none, 1⟩ := by decide

/-- V10, R195: a stall changes nothing, and a request offered meanwhile is not taken. -/
theorem test_edge_stalled :
    edgeShown (step (emitting 1 [offerLoopback])) = some ⟨.emit, 1, true, none, 0⟩ := by decide

/-- P3: the debug word after the failed request, and at the end of P2. -/
theorem test_debug_word :
    (match step (latched .enc6 docWords .emit 5 [failEdge 0x1c]) with
      | .next t => some (dbgWord t)
      | .fault _ => none
      | .refused _ => none) = some 0x15272d42c5 ∧
    dbgWord (latched .enc6 ⟨0xfe800001, 0x0202b3ff, 0xfe1e8329, 0x00100000⟩ .idle 30 []) = 0x150020079e := by decide

/-! ### Notation -/

/-- R91: `enc6 0x20010db8, 0, 0, 1`, an underscore, a comment, and an operand out of range. -/
theorem test_assembler :
    parseAsm ['e', 'n', 'c', '6', ' ', '0', 'x', '2', '0', '0', '1', '_', '0', 'd', 'b', '8', ',', ' ', '0', ',',
      ' ', '0', ',', ' ', '1', ' ', ';', 'x'] = .line (.enc6 ⟨0x20010db8, 0, 0, 1⟩) ∧
    parseAsm ['e', 'n', 'c', '4', '.', 'o', ' ', '1', '9', '2', ',', '1', '6', '8', ',', '1', ',', '1'] =
      .line (.enc4o 192 168 1 1) ∧
    parseAsm ['e', 'n', 'c', '4', '.', 'o', ' ', '2', '5', '6', ',', '0', ',', '0', ',', '0'] = .malformed := by
  decide

/-- R92, S5 and P4's request. -/
theorem test_pseudo_requests :
    (asmRequest (.enc4o 192 168 1 1)).map encode = some 0x000000000000000000000000c0a80101 ∧
    (asmRequest (.enc6g 1 2 3 4 5 6 0 0)).map encode = some 0x100010002000300040005000600000000 := by decide

/-- P4's directives: three stalls, four bytes, a reset, then the request again, its 13 bytes taken. -/
theorem test_script :
    (asmScript 0 none none 0 [.enc6g 1 2 3 4 5 6 0 0, .sinkStall 3, .sinkTake 4, .reset,
      .enc6g 1 2 3 4 5 6 0 0]).map (fun e => (e.rst, e.reqValid, e.snkReady)) =
    [(false, true, false)] ++ List.replicate 3 (false, false, false) ++ List.replicate 4 (false, false, true) ++
      [(true, false, false), (false, true, false)] ++ List.replicate 13 (false, false, true) := by decide

/-- R92: a stall line before a request stalls that request's first beat, and P5's first failure follows it. -/
theorem test_script_stall_first :
    (asmScript 0 none none 0 [.sinkStall 2, .sinkFail 0 0xff, .enc4 0]).map
        (fun e => (e.reqValid, e.snkReady, e.snkFail)) =
      [(true, false, false), (false, false, false), (false, false, false), (false, false, true)] := by decide

/-! ### The end of a run -/

/-- The events of V7 and of V1: the request cut off, then issued again and delivered. -/
def cutThenWhole : List Event :=
  [.accept .enc6 1, .byte 0x3A false, .reset] ++
    [.accept .enc6 1, .byte 0x3A false, .byte 0x3A false, .byte 0x31 true, .done false 0]

/-- R257: over when every request of the list was accepted and has ended, whatever edges are still to come; not
over while a request of the list was never accepted, or one is open. -/
theorem test_runOver :
    runOver [0x100000000000000000000000000000001, 0x100000000000000000000000000000001] State.reset
      { idle [quietEdge] with events := cutThenWhole } = true ∧
    runOver [0x100000000000000000000000000000001, 0x100000000000000000000000000000001,
      0x000000000000000000000000000000000] State.reset { idle [] with events := cutThenWhole } = false ∧
    runOver [0x100000000000000000000000000000001] State.reset
      { emitting 1 [] with events := [.accept .enc6 1, .byte 0x3A false] } = false ∧
    asmProgram [.enc6x 1, .reset, .enc6x 1] =
      [0x100000000000000000000000000000001, 0x100000000000000000000000000000001] := by decide

/-- R257: the result is the Byte, Fail and Done events. -/
theorem test_resultOf :
    resultOf State.reset { idle [] with events := cutThenWhole } =
      [.byte 0x3A false, .byte 0x3A false, .byte 0x3A false, .byte 0x31 true, .done false 0] := rfl

/-- R91: 33 hexadecimal digits, the first being `op`. -/
theorem test_requestHex :
    (requestHex 0x120010db8000000000000000000000001).take 9 =
      [0x31, 0x32, 0x30, 0x30, 0x31, 0x30, 0x64, 0x62, 0x38] ∧
    (requestHex 0x120010db8000000000000000000000001).length = 33 := by decide
/-! ### Witnesses: for each statement with hypotheses, values that meet all of them -/

/-- The register invariants hold of a block in mid-string. -/
theorem emitting_regs : RegsOk (emitting 1 [takeEdge]) := by
  constructor <;> decide

/-- They hold at the last byte too. -/
theorem emitting_last_regs : RegsOk (emitting 2 [takeEdge]) := by
  constructor <;> decide

theorem witness_OperandFieldsAreBigEndianSlices :
    ((groupsOf (wordsOf 7))[0]? = some 0 ∧ 15 < 16) ∧ ((groupsOf (wordsOf 7))[7]? = some 7 ∧ 0 < 16) ∧
      ((octetsOf 0x01020304)[0]? = some 1 ∧ 7 < 8) ∧ ((octetsOf 0x01020304)[3]? = some 4 ∧ 0 < 8) ∧
      (0 < 32 ∧ 31 < 32) := by decide

theorem witness_DecodeOfEncodeIsTheInstruction :
    (Instr.enc4 5 7).wellFormed = true ∧
    (Instr.enc6Compat 0x10000).wellFormed = true ∧ (Instr.enc6Compat 0x10000).refined = true ∧
    (Instr.enc6Generic ⟨0, 0, 0, 0xffff⟩).wellFormed = true ∧ (Instr.enc6 ⟨0, 0, 0xffff, 1⟩).wellFormed = true := by
  decide

theorem witness_OperationBitSelectsTheOperation :
    reqOpBit 0x0ffffffffffffffffffffffffffffffff = 0 ∧ reqOpBit 0x100000000000000000000000000000000 = 1 := by decide

theorem witness_FamilyOfARequest :
    isMapped ⟨0, 0, 0xffff, 0⟩ = true ∧ isCompat ⟨0, 0, 0, 0x10000⟩ = true ∧ isGeneric ⟨0, 0, 0, 0xffff⟩ = true := by
  decide

theorem witness_Enc4IsAccepted : (idle []).ph = .idle := rfl

theorem witness_Enc6IsAccepted : (latched .enc4 docWords .idle 3 []).ph = .idle := rfl

theorem witness_Enc6MappedIsAccepted : (latched .enc6 docWords .idle 11 []).ph = .idle := rfl

theorem witness_Enc6CompatIsAccepted : State.reset.ph = .idle := rfl

theorem witness_Enc6GenericIsAccepted : (latched .enc6 loopback .idle 3 []).ph = .idle := rfl

theorem witness_IgnoredBitsDoNotAffectTheString : State.reset.ph = .idle := rfl

theorem witness_RequestsWaitWhileBusy : (emitting 1 []).ph = .emit := rfl

theorem witness_StepRunsTheDecodedRequest :
    (idle [offerLoopback]).ph = .idle ∧ (edgeOf (idle [offerLoopback])).rst = false ∧
      (edgeOf (idle [offerLoopback])).reqValid = true := by decide

theorem witness_AcceptStep :
    (latched .enc4 docWords .idle 3 [offerLoopback]).ph = .idle ∧
      (edgeOf (latched .enc4 docWords .idle 3 [offerLoopback])).rst = false ∧
      (edgeOf (latched .enc4 docWords .idle 3 [offerLoopback])).reqValid = true := by decide

theorem witness_AcceptReadsNoOldRegister :
    (idle [offerLoopback]).ph = .idle ∧ (latched .enc4 docWords .idle 3 [offerLoopback]).ph = .idle ∧
      edgeOf (idle [offerLoopback]) = edgeOf (latched .enc4 docWords .idle 3 [offerLoopback]) ∧
      (edgeOf (idle [offerLoopback])).rst = false ∧ (edgeOf (idle [offerLoopback])).reqValid = true :=
  ⟨rfl, rfl, rfl, rfl, rfl⟩

/-- A stalled beat, and an edge with nothing to do past the end of the script. -/
theorem witness_StallAndIdleChangeNothing :
    ((edgeOf (emitting 1 [quietEdge])).rst = false ∧ (emitting 1 [quietEdge]).ph = .emit ∧
      (edgeOf (emitting 1 [quietEdge])).snkFail = false ∧ (edgeOf (emitting 1 [quietEdge])).snkReady = false) ∧
    ((edgeOf (idle [])).rst = false ∧ (idle []).ph = .idle ∧ (edgeOf (idle [])).reqValid = false) := by decide

/-- The last index at which a byte is not the last. -/
theorem witness_DeliverAByteThatIsNotTheLast :
    (emitting 1 [takeEdge]).ph = .emit ∧ (edgeOf (emitting 1 [takeEdge])).rst = false ∧
      (edgeOf (emitting 1 [takeEdge])).snkFail = false ∧ (edgeOf (emitting 1 [takeEdge])).snkReady = true ∧
      (emitting 1 [takeEdge]).optr.toNat + 1 < (emitting 1 [takeEdge]).olen.toNat ∧
      (emitting 1 [takeEdge]).ob[(emitting 1 [takeEdge]).optr.toNat]? = some 0x3A := by decide

theorem witness_DeliverTheLastByte :
    (emitting 2 [takeEdge]).ph = .emit ∧ (edgeOf (emitting 2 [takeEdge])).rst = false ∧
      (edgeOf (emitting 2 [takeEdge])).snkFail = false ∧ (edgeOf (emitting 2 [takeEdge])).snkReady = true ∧
      (emitting 2 [takeEdge]).optr.toNat + 1 = (emitting 2 [takeEdge]).olen.toNat ∧
      (emitting 2 [takeEdge]).ob[(emitting 2 [takeEdge]).optr.toNat]? = some 0x31 := by decide

/-- A failure with `snk_ready = 1` beside it. -/
theorem witness_AbortOnSinkFailure :
    (emitting 0 [readyAndFail]).ph = .emit ∧ (edgeOf (emitting 0 [readyAndFail])).rst = false ∧
      (edgeOf (emitting 0 [readyAndFail])).snkFail = true := by decide

theorem witness_ResetStepFromAnyState :
    (edgeOf (emitting 2 [allHigh])).rst = true ∧ (edgeOf (idle [resetEdge])).rst = true := by decide

/-- Both changes of phase happen. -/
theorem witness_PhaseChangesOnlyAsStated :
    (∃ t, step (idle [offerLoopback]) = .next t ∧ (idle [offerLoopback]).ph = .idle ∧ t.ph = .emit) ∧
    (∃ t, step (emitting 2 [takeEdge]) = .next t ∧ (emitting 2 [takeEdge]).ph = .emit ∧ t.ph = .idle) :=
  ⟨⟨_, rfl, rfl, rfl⟩, ⟨_, rfl, rfl, rfl⟩⟩

theorem witness_OnlyAcceptAndResetWriteTheData :
    ∃ t, step (emitting 1 [takeEdge]) = .next t ∧ (edgeOf (emitting 1 [takeEdge])).rst = false ∧
      ¬ ((emitting 1 [takeEdge]).ph = .idle ∧ (edgeOf (emitting 1 [takeEdge])).reqValid = true) :=
  ⟨_, rfl, rfl, by decide⟩

theorem witness_DebugValidBit : ∃ t, step (idle [offerLoopback]) = .next t := ⟨_, rfl⟩

theorem witness_PointerAdvancesByOneAndNeverWraps :
    RegsOk (emitting 2 [takeEdge]) ∧ ∃ t, step (emitting 2 [takeEdge]) = .next t :=
  ⟨emitting_last_regs, _, rfl⟩

theorem witness_CompletionPulseFollowsTheEndOfARequest :
    ∃ t, step (emitting 2 [takeEdge]) = .next t ∧ t.cpl = some ⟨false, 0⟩ ∧ cplValid t = true :=
  ⟨_, rfl, rfl, rfl⟩

/-- Two edges that differ on the request port alone. -/
theorem witness_EmitIgnoresTheRequestPort :
    (emitting 1 []).ph = .emit ∧ takeEdge.rst = { takeEdge with reqValid := true }.rst ∧
      takeEdge.snkReady = { takeEdge with reqValid := true }.snkReady ∧
      takeEdge.snkFail = { takeEdge with reqValid := true }.snkFail ∧
      takeEdge.snkCode = { takeEdge with reqValid := true }.snkCode :=
  ⟨rfl, rfl, rfl, rfl, rfl⟩

/-- Two edges that differ on the sink port alone. -/
theorem witness_IdleIgnoresTheSinkPort :
    (idle []).ph = .idle ∧ offerLoopback.rst = { offerLoopback with snkReady := true }.rst ∧
      offerLoopback.reqValid = { offerLoopback with snkReady := true }.reqValid ∧
      offerLoopback.reqOp = { offerLoopback with snkReady := true }.reqOp ∧
      offerLoopback.reqA = { offerLoopback with snkReady := true }.reqA :=
  ⟨rfl, rfl, rfl, rfl, rfl⟩

theorem witness_DecimalDigitsOfAnOctet :
    (dec8 0).head? = some 0x30 ∧ dec8 255 = dec8 255 := by decide

theorem witness_DottedDecimalLengthAndInjectivity :
    (7 ≤ 7 ∧ 7 ≤ 15) ∧ (7 ≤ 15 ∧ 15 ≤ 15) ∧ v4Text 0 = v4Text 0 := by decide

theorem witness_HexDigitsOfAGroup : (hex16 0).head? = some 0x30 ∧ hex16 0xffff = hex16 0xffff := by decide

/-- A run of two at the left edge, an operand with a run of one only, and one with none. -/
theorem witness_GapIsTheLeftmostLongestZeroRun :
    IsZeroRun ⟨0, 0x00010001, 0x00010001, 0x00010001⟩ 0 2 ∧
    (∀ s e, IsZeroRun ⟨0x00010001, 0x00010001, 0x00010001, 0x00010001⟩ s e → e < s + 2) := by
  refine ⟨⟨by decide, by decide, ?_, .inl rfl, .inr (by unfold GroupIsZero; decide)⟩, ?_⟩
  · intro i _ h
    have : i = 0 ∨ i = 1 := by omega
    rcases this with rfl | rfl <;> (unfold GroupIsZero; decide)
  · intro s e h
    have hs : s < 8 := by have := h.1; have := h.2.1; omega
    have hz := h.2.2.1 s (Nat.le_refl s) h.1
    have hne : ∀ k : Fin 8, ¬ (groupsOf ⟨0x00010001, 0x00010001, 0x00010001, 0x00010001⟩)[k.val]? = some 0 := by
      decide
    exact absurd hz (hne ⟨s, hs⟩)

theorem witness_OnlyZeronessMattersToTheGap :
    ∀ i, GroupIsZero ⟨0, 0x00010000, 0, 5⟩ i ↔ GroupIsZero ⟨0, 0x80000000, 0, 7⟩ i := by
  intro i
  by_cases h : i < 8
  · have hk : ∀ k : Fin 8, (groupsOf ⟨0, 0x00010000, 0, 5⟩)[k.val]? = some 0 ↔
        (groupsOf ⟨0, 0x80000000, 0, 7⟩)[k.val]? = some 0 := by decide
    exact hk ⟨i, h⟩
  · have hn : ∀ w : Words, (groupsOf w)[i]? = none := fun w => List.getElem?_eq_none (by simpa [groupsOf] using h)
    simp [GroupIsZero, hn]

theorem witness_ClassificationTableOfAllGaps :
    ((⟨6, 8⟩, ⟨.hl, .chl, .chl, .cc⟩) : Gap × Tags) ∈ classificationTable := by decide

theorem witness_TagsThatCanOccurAtEachWord :
    (tagsOf (gapFind ⟨0x00010002, 0x00030004, 0x00050006, 0⟩)).t3 = .cc := by decide

/-- One operand for each of the three clauses. -/
theorem witness_TagsFitTheWordsTheyAreChosenFor :
    classify 1 (gapFind loopback) = .nop ∧ classify 3 (gapFind loopback) = .clo ∧
      classify 1 (gapFind ⟨0, 0x00010000, 0, 0x00020000⟩) = .chc ∧
      classify 0 (gapFind ⟨0x00010000, 0, 0, 0⟩) = .hc ∧ [(0 : Word), 0, 0, 1][(3 : Fin 4).val]? = some 1 := by decide

/-- "::1" begins with a colon and "1::" ends with one. -/
theorem witness_OneDoubleColonIffAGap :
    (genText loopback).head? = some colon ∧ (genText ⟨0x00010000, 0, 0, 0⟩).getLast? = some colon := by decide

theorem witness_GenericOperandNeverHasGapZeroSix : isGeneric ⟨0, 0, 0, 0xffff⟩ = true := by decide

theorem witness_StringLengthByFamily :
    familyOf .enc4 loopback = .v4 ∧ familyOf .enc6 ⟨0, 0, 0xffff, 0⟩ = .mapped ∧
      familyOf .enc6 ⟨0, 0, 0, 0x10000⟩ = .compat := by decide

theorem witness_OnlyTheEighteenCharacters :
    dot ∈ textOf .enc4 loopback ∧ isGeneric loopback = true ∧ (0x66 : Byte) ∈ textOf .enc6 ⟨0, 0, 0xffff, 0⟩ := by
  decide

theorem witness_OneStringPerAddress :
    textOf .enc6 loopback = textOf .enc6 loopback ∧ textOf .enc4 ⟨1, 0, 0, 5⟩ = textOf .enc4 ⟨2, 0, 0, 5⟩ ∧
      isGeneric loopback = true ∧ isMapped ⟨0, 0, 0xffff, 0⟩ = true ∧ isCompat ⟨0, 0, 0, 0x10000⟩ = true := by decide

theorem witness_EmissionMuxGivesTheBufferedString :
    RegsOk (emitting 1 [takeEdge]) ∧ (emitting 1 [takeEdge]).dv = true ∧ Family.mapped ≠ .generic :=
  ⟨emitting_regs, rfl, by decide⟩

theorem witness_EveryStepKeepsTheRegisterInvariants :
    RegsOk (emitting 1 [takeEdge]) ∧ ∃ t, step (emitting 1 [takeEdge]) = .next t :=
  ⟨emitting_regs, _, rfl⟩

/-- A block in mid-string whose record holds what it has sent. -/
theorem witness_EveryStepKeepsTheShapeOfTheTrace :
    RegsOk { emitting 1 [takeEdge] with events := partialEvents .enc6 loopback 1 } ∧
      TraceOk { emitting 1 [takeEdge] with events := partialEvents .enc6 loopback 1 } ∧
      ∃ t, step { emitting 1 [takeEdge] with events := partialEvents .enc6 loopback 1 } = .next t := by
  refine ⟨?_, ⟨[], .none, rfl⟩, _, rfl⟩
  constructor <;> decide

/-- V2: "::1" with stalls between the bytes. -/
theorem witness_AFairSinkGetsTheWholeString :
    (idle (offerLoopback :: ([quietEdge, takeEdge, takeEdge, quietEdge, takeEdge] ++ []))).ph = .idle ∧
      offerLoopback.rst = false ∧ offerLoopback.reqValid = true ∧
      (∀ x ∈ [quietEdge, takeEdge, takeEdge, quietEdge, takeEdge], x.calm) ∧
      [quietEdge, takeEdge, takeEdge, quietEdge, takeEdge].countP (·.snkReady) = offerLoopback.text.length ∧
      (∃ x, [quietEdge, takeEdge, takeEdge, quietEdge, takeEdge].getLast? = some x ∧ x.snkReady = true) := by
  refine ⟨rfl, rfl, rfl, ?_, by decide, _, rfl, rfl⟩
  intro x hx
  fin_cases hx <;> exact ⟨rfl, rfl⟩

/-- V5: the failure at the last byte. -/
theorem witness_ASinkFailureEndsTheRequestPrecisely :
    (idle (offerLoopback :: ([takeEdge, takeEdge] ++ failEdge 0 :: []))).ph = .idle ∧
      offerLoopback.rst = false ∧ offerLoopback.reqValid = true ∧ (∀ x ∈ [takeEdge, takeEdge], x.calm) ∧
      [takeEdge, takeEdge].countP (·.snkReady) < offerLoopback.text.length ∧ (failEdge 0).rst = false ∧
      (failEdge 0).snkFail = true := by
  refine ⟨rfl, rfl, rfl, ?_, by decide, rfl, rfl⟩
  intro x hx
  fin_cases hx <;> exact ⟨rfl, rfl⟩

/-- V8: a reset at an edge at which the sink is ready. -/
theorem witness_AResetCutsTheRequestWithoutCompletion :
    (idle (offerLoopback :: ([takeEdge] ++ allHigh :: []))).ph = .idle ∧
      offerLoopback.rst = false ∧ offerLoopback.reqValid = true ∧ (∀ x ∈ [takeEdge], x.calm) ∧
      [takeEdge].countP (·.snkReady) < offerLoopback.text.length ∧ allHigh.rst = true := by
  refine ⟨rfl, rfl, rfl, ?_, by decide, rfl⟩
  intro x hx
  fin_cases hx
  exact ⟨rfl, rfl⟩

/-- V10, cut short: two stalls, a request offered meanwhile. -/
theorem witness_AStallingSinkHoldsTheBlock :
    (emitting 0 ([quietEdge, offerLoopback] ++ [])).ph = .emit ∧ [quietEdge, offerLoopback] ≠ [] ∧
      (∀ x ∈ [quietEdge, offerLoopback], x.calm ∧ x.snkReady = false) := by
  refine ⟨rfl, by simp, ?_⟩
  intro x hx
  fin_cases hx <;> exact ⟨⟨rfl, rfl⟩, rfl⟩

theorem witness_SinkPortOffersTheNextByte :
    (idle []).ph = .idle ∧ RegsOk (emitting 2 [takeEdge]) ∧ (emitting 2 [takeEdge]).ph = .emit :=
  ⟨rfl, emitting_last_regs, rfl⟩

theorem witness_CompletionWordFields :
    ({ State.reset with cpl := some ⟨true, 0⟩ } : State).cpl = some ⟨true, 0⟩ := rfl

end Sys2Proof.Tests
end

section
/-! SUPPORT. The length of every string (R104, R198), what each kind of edge does to the data registers, and that it
keeps the register invariants. -/

namespace Sys2Proof.Machine

/-! ### How long a string is -/

/-- The length of a dotted-decimal text: its three dots and the digits of its octets (R104). -/
theorem v4Text_length (x : Word) : (v4Text x).length = 3 + ((octetsOf x).map fun o => (dec8 o).length).sum := by
  simp [v4Text, octetsOf, List.intercalate, List.intersperse]
  omega

/-- A dotted-decimal text has 7 to 15 characters (R104). -/
theorem v4Text_length_bounds (x : Word) : 7 ≤ (v4Text x).length ∧ (v4Text x).length ≤ 15 := by
  have h0 := dec8_length_bounds (BitVec.extractLsb' 24 8 x)
  have h1 := dec8_length_bounds (BitVec.extractLsb' 16 8 x)
  have h2 := dec8_length_bounds (BitVec.extractLsb' 8 8 x)
  have h3 := dec8_length_bounds (BitVec.extractLsb' 0 8 x)
  simp only [v4Text_length, octetsOf, List.map_cons, List.map_nil, List.sum_cons, List.sum_nil]
  omega

/-- The tags of word 0: none of them sends ten bytes (R146, R149). -/
theorem classify_zero_cases (g : Gap) (h : gapLegal g = true) :
    classify 0 g = .hl ∨ classify 0 g = .col ∨ classify 0 g = .hc := by
  simp only [classify, h, if_true, classifyFirst]
  split
  · exact .inl rfl
  · split
    · exact .inr (.inl rfl)
    · exact .inr (.inr rfl)

/-- The tags of word 3 (R146, R149). -/
theorem classify_three_cases (g : Gap) (h : gapLegal g = true) :
    classify 3 g = .chl ∨ classify 3 g = .cc ∨ classify 3 g = .col ∨ classify 3 g = .clo := by
  simp only [classify, h, if_true, classifyLast]
  split
  · exact .inl rfl
  · split
    · exact .inr (.inl rfl)
    · split
      · exact .inr (.inr (.inl rfl))
      · exact .inr (.inr (.inr rfl))

/-- Word 0 sends 1 to 9 bytes. -/
theorem emit_word_zero_length (g : Gap) (h : gapLegal g = true) (x : Word) :
    1 ≤ (emitTag (classify 0 g) x).length ∧ (emitTag (classify 0 g) x).length ≤ 9 := by
  have hhi := hex16_length_bounds (hiOf x)
  have hlo := hex16_length_bounds (loOf x)
  rcases classify_zero_cases g h with ht | ht | ht <;> rw [ht] <;> simp <;> omega

/-- Word 3 sends at least one byte. -/
theorem emit_word_three_length (g : Gap) (h : gapLegal g = true) (x : Word) :
    1 ≤ (emitTag (classify 3 g) x).length := by
  rcases classify_three_cases g h with ht | ht | ht | ht <;> rw [ht] <;> simp

/-- A generic text has 2 to 39 characters (R198): a separator less than four words of ten. -/
theorem genText_length_bounds (w : Words) : 2 ≤ (genText w).length ∧ (genText w).length ≤ 39 := by
  have h0 := emit_word_zero_length _ (gapFind_legal w) w.w0
  have h1 := emitTag_length_le (classify 1 (gapFind w)) w.w1
  have h2 := emitTag_length_le (classify 2 (gapFind w)) w.w2
  have h3 := emit_word_three_length _ (gapFind_legal w) w.w3
  have h3' := emitTag_length_le (classify 3 (gapFind w)) w.w3
  simp only [genText, emitWords, tagsOf, List.length_append]
  omega

/-- Every string has 2 to 39 characters, so it fits `OB` and its length fits `OLEN` (R26, R198). -/
theorem textOf_length_bounds (op : Op) (w : Words) : 2 ≤ (textOf op w).length ∧ (textOf op w).length ≤ 39 := by
  have hv := v4Text_length_bounds w.w3
  have hg := genText_length_bounds w
  unfold textOf
  cases familyOf op w with
  | v4 => dsimp only; omega
  | generic => exact hg
  | mapped => simp only [mappedText, mappedToken, List.length_append, List.length_cons, List.length_nil]; omega
  | compat => simp only [compatText, compatToken, List.length_append, List.length_cons, List.length_nil]; omega

/-! ### What an accept step leaves -/

/-- `OLEN` after an accept step is the length of the string, as a number (R192). -/
theorem accept_olen_toNat (op : Op) (w : Words) (fam : Family) (s : State) :
    (accept op w fam (textOf op w) s).olen.toNat = (textOf op w).length := by
  have h := textOf_length_bounds op w
  rw [accept_olen, BitVec.toNat_ofNat, Nat.mod_eq_of_lt (by omega)]

/-- `OB` after an accept step holds the string (R192). -/
theorem accept_ob_get (op : Op) (w : Words) (fam : Family) (s : State) (i : Nat) (hi : i < (textOf op w).length) :
    (accept op w fam (textOf op w) s).ob[i]? = (textOf op w)[i]? := by
  have h := textOf_length_bounds op w
  rw [accept_ob, bufferOf_get _ _ _ hi (by omega)]

/-- The accept step, by the fields of the request port (R192). -/
theorem step_accepts (s : State) (hp : s.ph = .idle) (hr : (edgeOf s).rst = false)
    (hv : (edgeOf s).reqValid = true) :
    step s = .next (accept (edgeOf s).op (edgeOf s).words (familyOf (edgeOf s).op (edgeOf s).words)
      (textOf (edgeOf s).op (edgeOf s).words) (tick s)) := by
  rw [step_accept s hr hp hv, exec_decode, offer_idle _ _ _ _ _ (by simpa using hp), fetchRequest,
    reqOpBit_packRequest, reqOperand_packRequest]
  rfl

/-! ### The steps that write no data register -/

/-- Keeping the data registers composes. -/
theorem dataKept_trans {s t u : State} (h : DataKept s t) (h' : DataKept t u) : DataKept s u := by
  cases s
  cases t
  obtain ⟨rfl, rfl, rfl, rfl, rfl, rfl, rfl, rfl, rfl⟩ := h
  exact { h' with }

/-- Ticking the script and the completion pulse writes no data register (R38). -/
theorem dataKept_tick (s : State) : DataKept s (tick s) := ⟨rfl, rfl, rfl, rfl, rfl, rfl, rfl, rfl, rfl⟩

/-- The abort step writes no data register (R39, R212). -/
theorem dataKept_abort (c : Config.SinkCode) (s : State) : DataKept s (abort c s) :=
  ⟨rfl, rfl, rfl, rfl, rfl, rfl, rfl, rfl, rfl⟩

/-- Delivering the last byte writes no data register (R39, R55). -/
theorem dataKept_deliverLast (s : State) : DataKept s (deliverLast s) :=
  ⟨rfl, rfl, rfl, rfl, rfl, rfl, rfl, rfl, rfl⟩

/-- Delivering another byte writes no data register (R39, R54). -/
theorem dataKept_deliverMore (s : State) : DataKept s (deliverMore s) :=
  ⟨rfl, rfl, rfl, rfl, rfl, rfl, rfl, rfl, rfl⟩

/-! ### The register invariants -/

/-- In phase EMIT a request is latched (R29). -/
theorem RegsOk.dv_of_emit {s : State} (h : RegsOk s) (hp : s.ph = .emit) : s.dv = true := by
  by_contra hdv
  obtain ⟨hidle, -⟩ := h.fresh (by simpa using hdv)
  rw [hp] at hidle
  cases hidle

/-- `OPTR + 1` does not wrap while a byte is on offer (R27, R28). -/
theorem RegsOk.optr_succ_toNat {s : State} (h : RegsOk s) (hp : s.ph = .emit) :
    (s.optr + 1).toNat = s.optr.toNat + 1 := by
  have hlt := h.emitting hp
  obtain ⟨-, hmax⟩ := h.length (h.dv_of_emit hp)
  rw [BitVec.toNat_add, show (1 : BitVec 6).toNat = 1 from rfl, Nat.mod_eq_of_lt (by omega)]

/-- A block that has latched nothing and is idle meets the invariants, whatever its data registers hold (R42). -/
theorem regsOk_of_unlatched {s : State} (hp : s.ph = .idle) (hptr : s.optr = 0) (hdv : s.dv = false) :
    RegsOk s := by
  constructor <;> simp [hp, hptr, hdv]

/-- The invariants on the data registers are kept with the data registers; what remains is the phase, the pointer
and the completion pulse. -/
theorem RegsOk.of_dataKept {s t : State} (h : RegsOk s) (hk : DataKept s t)
    (fresh : s.dv = false → t.ph = .idle ∧ t.optr = 0)
    (emitting : t.ph = .emit → t.optr.toNat < s.olen.toNat)
    (completing : t.cpl ≠ none → t.ph = .idle)
    (pointer : s.dv = true → t.optr.toNat ≤ s.olen.toNat) : RegsOk t := by
  cases s
  cases t
  obtain ⟨rfl, rfl, rfl, rfl, rfl, rfl, rfl, rfl, rfl⟩ := hk
  exact { h with fresh, emitting, completing, pointer }

/-- A stalled or idle edge keeps the invariants (R53). -/
theorem RegsOk.tick {s : State} (h : RegsOk s) : RegsOk (tick s) :=
  h.of_dataKept (dataKept_tick s) h.fresh h.emitting (fun hc => absurd rfl hc) h.pointer

/-- The abort step keeps the invariants (R212). -/
theorem RegsOk.abort {s : State} (h : RegsOk s) (c : Config.SinkCode) : RegsOk (abort c s) :=
  h.of_dataKept (dataKept_abort c s) (fun hdv => ⟨rfl, (h.fresh hdv).2⟩) (fun hp => by simp at hp)
    (fun _ => rfl) h.pointer

/-- Delivering the last byte keeps the invariants (R55). -/
theorem RegsOk.deliverLast {s : State} (h : RegsOk s) (hp : s.ph = .emit) : RegsOk (deliverLast s) :=
  h.of_dataKept (dataKept_deliverLast s) (fun hdv => by simp [h.dv_of_emit hp] at hdv) (fun hq => by simp at hq)
    (fun _ => rfl) (fun _ => Nat.le_refl _)

/-- Delivering another byte keeps the invariants: the next one is on offer (R54). -/
theorem RegsOk.deliverMore {s : State} (h : RegsOk s) (hp : s.ph = .emit)
    (hl : s.optr.toNat + 1 ≠ s.olen.toNat) : RegsOk (deliverMore s) := by
  have hlt := h.emitting hp
  have hptr : (Machine.deliverMore s).optr.toNat = s.optr.toNat + 1 := h.optr_succ_toNat hp
  exact h.of_dataKept (dataKept_deliverMore s) (fun hdv => by simp [h.dv_of_emit hp] at hdv) (fun _ => by omega)
    (fun hc => h.completing hc) (fun _ => by omega)

/-- An accept step establishes the invariants, from any state whose completion pulse has ended (R37, R38,
R192). -/
theorem regsOk_accept (op : Op) (w : Words) (s : State) (hc : s.cpl = none) :
    RegsOk (accept op w (familyOf op w) (textOf op w) s) := by
  have hlen := accept_olen_toNat op w (familyOf op w) s
  obtain ⟨h2, h39⟩ := textOf_length_bounds op w
  constructor
  case fresh => intro h; simp at h
  case emitting => intro _; rw [hlen, accept_optr]; exact Nat.lt_of_lt_of_le Nat.zero_lt_two h2
  case completing => intro h; simp [hc] at h
  case pointer => intro _; rw [accept_optr]; exact Nat.zero_le _
  case length => intro _; omega
  case gapIn => intro _; exact gapFind_legal w
  case family => intro _; rfl
  case gap => intro _; rfl
  case tags => intro _; rfl
  case textLength => intro _; exact hlen
  case text => intro _ i hi; rw [hlen] at hi; exact accept_ob_get op w _ s i hi

/-- The byte on offer in phase EMIT is the next byte of the string (R34, R38). -/
theorem RegsOk.byteOnOffer_eq {s : State} (h : RegsOk s) (hp : s.ph = .emit) :
    (textOf s.op s.w)[s.optr.toNat]? = some (byteOnOffer s) := by
  have hdv := h.dv_of_emit hp
  have hlt := h.emitting hp
  have hob := h.text hdv _ hlt
  rw [h.textLength hdv] at hlt
  rw [byteOnOffer, hob, List.getElem?_eq_getElem hlt, Option.getD_some]

/-- The last mark is up exactly at the end of the string (R34, R38). -/
theorem RegsOk.lastOnOffer_iff {s : State} (h : RegsOk s) (hp : s.ph = .emit) :
    lastOnOffer s = true ↔ s.optr.toNat + 1 = (textOf s.op s.w).length := by
  rw [lastOnOffer, beq_iff_eq, h.textLength (h.dv_of_emit hp)]

/-- The byte of a beat (R82). -/
theorem beat_byte (l : Bool) (b : Byte) : BitVec.extractLsb' 0 8 (BitVec.ofBool l ++ b) = b := by
  apply BitVec.eq_of_getLsbD_eq
  intro i hi
  rw [BitVec.getLsbD_extractLsb', BitVec.getLsbD_append, Nat.zero_add, if_pos hi, decide_eq_true hi, Bool.true_and]

/-- The last mark of a beat (R82). -/
theorem beat_last (l : Bool) (b : Byte) : (BitVec.ofBool l ++ b).getLsbD 8 = l := by
  rw [BitVec.getLsbD_append, if_neg (by decide)]
  cases l <;> rfl

end Sys2Proof.Machine
end

section
/-! The obligations about the state, its invariants and its ports (10_state). -/

namespace Sys2Proof.Machine

/-- Settles O51, by the rows of R218. -/
theorem everyStepKeepsTheRegisterInvariants : Obligations.EveryStepKeepsTheRegisterInvariants := by
  intro s t h hstep
  rcases step_cases s t hstep with ⟨-, rfl⟩ | ⟨-, -, -, rfl⟩ | ⟨-, hp, -, -, ⟨-, rfl⟩ | ⟨hl, rfl⟩⟩ |
    ⟨-, -, -, -, rfl⟩ | ⟨-, -, -, op, w, -, -, rfl⟩ | ⟨-, -, -, rfl⟩
  · exact regsOk_of_unlatched rfl rfl rfl
  · exact h.tick.abort _
  · exact h.tick.deliverLast hp
  · exact h.tick.deliverMore hp hl
  · exact h.tick
  · exact regsOk_accept op w _ rfl
  · exact h.tick

/-- Settles O26, by the rows of R218: of those that start in IDLE only the accept step ends in EMIT, and of those that
start in EMIT a reset, the abort step and the last byte end in IDLE. -/
theorem phaseChangesOnlyAsStated : Obligations.PhaseChangesOnlyAsStated := by
  intro s t hstep
  rcases step_cases s t hstep with ⟨-, rfl⟩ | ⟨-, hp, -, rfl⟩ | ⟨-, hp, -, -, ⟨hl, rfl⟩ | ⟨-, rfl⟩⟩ |
    ⟨-, hp, -, -, rfl⟩ | ⟨hr, hp, hv, op, w, rfl, rfl, rfl⟩ | ⟨-, hp, -, rfl⟩
  · simp
  · simp
  · have hbyte : byteOnOffer (tick s) = byteOnOffer s := rfl
    simp [hp, hl, hbyte]
  · simp [hp]
  · simp [hp]
  · simp [hp, hr, hv, fetchRequest, operandOf_wordsOf, Edge.op]
  · simp [hp]

/-- Settles O27: each of the other rows of R218 keeps the data registers. -/
theorem onlyAcceptAndResetWriteTheData : Obligations.OnlyAcceptAndResetWriteTheData := by
  intro s t hstep hr hna
  rcases step_cases s t hstep with ⟨hr', -⟩ | ⟨-, -, -, rfl⟩ | ⟨-, -, -, -, ⟨-, rfl⟩ | ⟨-, rfl⟩⟩ |
    ⟨-, -, -, -, rfl⟩ | ⟨-, hp, hv, -⟩ | ⟨-, -, -, rfl⟩
  · rw [hr] at hr'; cases hr'
  · exact dataKept_trans (dataKept_tick s) (dataKept_abort _ (tick s))
  · exact dataKept_trans (dataKept_tick s) (dataKept_deliverLast (tick s))
  · exact dataKept_trans (dataKept_tick s) (dataKept_deliverMore (tick s))
  · exact dataKept_tick s
  · exact absurd ⟨hp, hv⟩ hna
  · exact dataKept_tick s

/-- Settles O28: by O27 only the reset row and the accept row are left to look at. -/
theorem debugValidBit : Obligations.DebugValidBit := by
  intro s t hstep
  by_cases hr : (edgeOf s).rst = true
  · rw [step_reset s hr] at hstep
    cases hstep
    simp [hr]
  · rw [Bool.not_eq_true] at hr
    by_cases ha : s.ph = .idle ∧ (edgeOf s).reqValid = true
    · obtain ⟨hp, hv⟩ := ha
      rw [step_accepts s hp hr hv] at hstep
      cases hstep
      simp [hr, hp, hv]
    · simpa [hr, ha] using (onlyAcceptAndResetWriteTheData s t hstep hr ha).valid

/-- Settles O29: an advance cannot wrap, because a byte is on offer (`RegsOk.optr_succ_toNat`). -/
theorem pointerAdvancesByOneAndNeverWraps : Obligations.PointerAdvancesByOneAndNeverWraps := by
  intro s t h hstep
  rcases step_cases s t hstep with ⟨hr, rfl⟩ | ⟨hr, hp, hf, rfl⟩ | ⟨hr, hp, hf, hy, ⟨hl, rfl⟩ | ⟨-, rfl⟩⟩ |
    ⟨hr, hp, hf, hy, rfl⟩ | ⟨hr, hp, hv, op, w, -, -, rfl⟩ | ⟨hr, hp, hv, rfl⟩
  · simp [hr]
  · simp [hr, hp, hf]
  · simp [hr, hp, hf, hy, hl]
  · simp only [hr, hp, hf, hy, deliverMore_optr, tick_optr, h.optr_succ_toNat hp]; simp
  · simp [hr, hp, hf, hy]
  · simp [hr, hp, hv]
  · simp [hr, hp, hv]

/-- Settles O30: the abort step and the last byte are the rows that set the pulse, and the rows that record a `Done`
as their second event. -/
theorem completionPulseFollowsTheEndOfARequest : Obligations.CompletionPulseFollowsTheEndOfARequest := by
  intro s t hstep
  rcases step_cases s t hstep with ⟨-, rfl⟩ | ⟨-, -, -, rfl⟩ | ⟨-, -, -, -, ⟨-, rfl⟩ | ⟨-, rfl⟩⟩ |
    ⟨-, -, -, -, rfl⟩ | ⟨-, -, -, op, w, -, -, rfl⟩ | ⟨-, -, -, rfl⟩
  · simp [cplValid]
  · simp [reqReady]
  · simp [reqReady]
  · simp [cplValid]
  · simp [cplValid]
  · simp [cplValid]
  · simp [cplValid]

/-- Settles O31: both blocks take the accept step of the same request, and within the string `OB` holds the string
whatever values are drawn past it. -/
theorem acceptReadsNoOldRegister : Obligations.AcceptReadsNoOldRegister := by
  intro s s' hp hp' he hr hv
  refine ⟨_, _, step_accepts s hp hr hv, step_accepts s' hp' (he ▸ hr) (he ▸ hv), ?_⟩
  rw [← he]
  simp only [accept_ph, accept_op, accept_w, accept_fam, accept_gs, accept_ge, accept_t, accept_optr, accept_dv,
    true_and]
  refine ⟨by simp only [accept_olen], fun i hi => ?_⟩
  rw [accept_olen_toNat] at hi
  rw [accept_ob_get _ _ _ _ _ hi, accept_ob_get _ _ _ _ _ hi]

/-- Settles O57: under the invariants the byte on offer is the next one of `TEXT(OP, W)`. -/
theorem sinkPortOffersTheNextByte : Obligations.SinkPortOffersTheNextByte := by
  intro s
  refine ⟨fun rst => by simp [reqReady], fun hp => by simp [snkValid, snkBeat, hp], fun h hp => ?_⟩
  have hvalid : snkValid s = true := by simp [snkValid, hp]
  refine ⟨h.dv_of_emit hp, hvalid, byteOnOffer s, _, h.byteOnOffer_eq hp, if_pos hvalid, beat_byte _ _, ?_⟩
  rw [beat_last]
  exact h.lastOnOffer_iff hp

/-- Settles O16: the row of R218 for an accept step. -/
theorem stepRunsTheDecodedRequest : Obligations.StepRunsTheDecodedRequest :=
  fun s hp hr hv => ⟨step_accept s hr hp hv, rfl⟩

/-- Settles O25, by evaluating the reset state. -/
theorem resetStateHasTheSpecifiedValues : Obligations.ResetStateHasTheSpecifiedValues := by
  unfold Obligations.ResetStateHasTheSpecifiedValues
  decide

/-- Settles O50: nothing is latched after reset, and the record is empty. -/
theorem resetStateIsSafe : Obligations.ResetStateIsSafe :=
  ⟨regsOk_of_unlatched rfl rfl rfl, [], .none, rfl⟩

end Sys2Proof.Machine
end

section
/-! SUPPORT. What one edge of phase EMIT does by the sink's answer (R53 to R55), the events of a request in progress
(R58), and what a run of edges without reset and failure does with a request (R252). -/

namespace Sys2Proof.Machine

/-! ### One edge of phase EMIT -/

/-- A stalled beat (R53). -/
theorem step_stalled {s : State} (hp : s.ph = .emit) (hr : (edgeOf s).rst = false) (hf : (edgeOf s).snkFail = false)
    (hy : (edgeOf s).snkReady = false) : step s = .next (tick s) := by
  rw [step_emit s hr hp]
  simp [sinkAnswer, hf, hy, beat]

/-- A byte the sink takes (R54, R55). -/
theorem step_taken {s : State} (hp : s.ph = .emit) (hr : (edgeOf s).rst = false) (hf : (edgeOf s).snkFail = false)
    (hy : (edgeOf s).snkReady = true) : step s = .next (deliver (tick s)) := by
  rw [step_emit s hr hp]
  simp [sinkAnswer, hf, hy, beat]

/-- A stalled beat, by the edge at the head of the script (R53). -/
theorem step_stalled_edge {s : State} {x : Edge} {rest : List Edge} (hs : s.script = x :: rest) (hp : s.ph = .emit)
    (hx : x.calm) (hy : x.snkReady = false) : step s = .next (tick s) := by
  obtain ⟨hr, hf⟩ := hx
  have he := edgeOf_cons s x rest hs
  exact step_stalled hp (he ▸ hr) (he ▸ hf) (he ▸ hy)

/-- A byte the sink takes, by the edge at the head of the script (R54, R55). -/
theorem step_taken_edge {s : State} {x : Edge} {rest : List Edge} (hs : s.script = x :: rest) (hp : s.ph = .emit)
    (hx : x.calm) (hy : x.snkReady = true) : step s = .next (deliver (tick s)) := by
  obtain ⟨hr, hf⟩ := hx
  have he := edgeOf_cons s x rest hs
  exact step_taken hp (he ▸ hr) (he ▸ hf) (he ▸ hy)

/-- A taken byte below `OLEN - 1` is not the last (R54). -/
theorem deliver_of_lt {s : State} (h : s.optr.toNat + 1 < s.olen.toNat) : deliver s = deliverMore s := by
  rcases deliver_cases s with ⟨hl, -⟩ | ⟨-, hd⟩
  · omega
  · exact hd

/-- A taken byte at `OLEN - 1` is the last (R55). -/
theorem deliver_of_eq {s : State} (h : s.optr.toNat + 1 = s.olen.toNat) : deliver s = deliverLast s := by
  rcases deliver_cases s with ⟨-, hd⟩ | ⟨hl, -⟩
  · exact hd
  · exact absurd h hl

/-- The byte on offer is the entry of `OB` at `OPTR`, and `tick` leaves it (R53). -/
theorem byteOnOffer_tick_of_get {s : State} {b : Byte} (h : s.ob[s.optr.toNat]? = some b) :
    byteOnOffer (tick s) = b := by
  simp [byteOnOffer, h]

/-- `OPTR + 1` does not wrap below `OLEN` (R28). -/
theorem optr_succ_toNat_of_lt {s : State} (h : s.optr.toNat + 1 < s.olen.toNat) :
    (s.optr + 1).toNat = s.optr.toNat + 1 := by
  have hmax := s.olen.isLt
  rw [BitVec.toNat_add, show (1 : BitVec 6).toNat = 1 from rfl, Nat.mod_eq_of_lt (by omega)]

/-! ### The events of a request -/

/-- Right after the accept step (R192). -/
@[simp] theorem partialEvents_zero (op : Op) (w : Words) : partialEvents op w 0 = [.accept op (operandOf w)] := by
  simp [partialEvents]

/-- One more byte of the string, not the last (R54). -/
theorem partialEvents_succ {op : Op} {w : Words} {n : Nat} {b : Byte} (h : (textOf op w)[n]? = some b) :
    partialEvents op w (n + 1) = partialEvents op w n ++ [.byte b false] := by
  simp [partialEvents, List.take_add_one, h]

/-- The last byte makes the string whole (R55). -/
theorem partialEvents_last {op : Op} {w : Words} {n : Nat} {b : Byte} (h : (textOf op w)[n]? = some b)
    (hn : n + 1 = (textOf op w).length) :
    partialEvents op w n ++ [.byte b true] = .accept op (operandOf w) :: stringEvents (textOf op w) := by
  have hlast : (textOf op w).getLast? = some b := by rw [List.getLast?_eq_getElem?, ← hn, Nat.add_sub_cancel, h]
  have hinit : (textOf op w).dropLast = (textOf op w).take n := by
    rw [List.dropLast_eq_take, ← hn, Nat.add_sub_cancel]
  simp [partialEvents, stringEvents, hlast, hinit]

/-- The bytes of a run of `Byte` events, whatever their marks. -/
theorem sinkContents_map_byte (bs : List Byte) (l : Bool) : sinkContents (bs.map (Event.byte · l)) = bs := by
  simp [sinkContents, List.filterMap_map]

/-- What a whole request leaves in the sink is its string (R257). -/
theorem sinkContents_whole (op : Op) (a : Operand) (str : List Byte) (f : Bool) (c : Config.SinkCode) :
    sinkContents (.accept op a :: stringEvents str ++ [.done f c]) = str := by
  have hbytes : sinkContents (stringEvents str) = str := by
    rw [stringEvents, sinkContents_append, sinkContents_map_byte, sinkContents_map_byte]
    cases str using List.reverseRecOn <;> simp
  rw [sinkContents_append, ← List.singleton_append, sinkContents_append, hbytes]
  simp [sinkContents]

/-- Nothing is in progress in phase IDLE. -/
@[simp] theorem openEvents_idle {s : State} (hp : s.ph = .idle) : openEvents s = [] := by
  simp [openEvents, hp]

/-- What is in progress in phase EMIT. -/
@[simp] theorem openEvents_emit {s : State} (hp : s.ph = .emit) :
    openEvents s = partialEvents s.op s.w s.optr.toNat := by
  simp [openEvents, hp]

/-! ### The shape of the record -/

/-- A step that adds to the request in progress, or opens one, keeps the shape. -/
theorem TraceOk.extend {s t : State} (h : TraceOk s) (b : List Event) (hopen : openEvents t = openEvents s ++ b)
    (hev : t.events = s.events ++ b) : TraceOk t := by
  obtain ⟨l, hl, hs⟩ := h
  exact ⟨l, hl, by rw [hev, hs, hopen, List.append_assoc]⟩

/-- A step into IDLE keeps the shape if what it adds finishes the request in progress. -/
theorem TraceOk.close {s t : State} (h : TraceOk s) (b : List Event) (hb : Block (openEvents s ++ b))
    (hp : t.ph = .idle) (hev : t.events = s.events ++ b) : TraceOk t := by
  obtain ⟨l, hl, hs⟩ := h
  exact ⟨_, hl.add _ _ hb, by rw [hev, hs, openEvents_idle hp, List.append_nil, List.append_assoc]⟩

/-- The pointer of a request in progress is within its string (R27, R38). -/
theorem RegsOk.optr_lt_text {s : State} (h : RegsOk s) (hp : s.ph = .emit) :
    s.optr.toNat < (textOf s.op s.w).length :=
  h.textLength (h.dv_of_emit hp) ▸ h.emitting hp

/-- The events of a request whose last byte the sink takes are those of a request delivered whole (R55, R216). -/
theorem RegsOk.openEvents_last {s : State} (h : RegsOk s) (hp : s.ph = .emit)
    (hl : s.optr.toNat + 1 = s.olen.toNat) :
    openEvents s ++ [.byte (byteOnOffer s) true] =
      .accept s.op (operandOf s.w) :: stringEvents (textOf s.op s.w) := by
  rw [openEvents_emit hp]
  exact partialEvents_last (h.byteOnOffer_eq hp) (hl.trans (h.textLength (h.dv_of_emit hp)))

/-- A byte that is not the last joins the events of the request in progress (R54). -/
theorem RegsOk.openEvents_deliverMore {s : State} (h : RegsOk s) (hp : s.ph = .emit) :
    openEvents (Machine.deliverMore s) = openEvents s ++ [.byte (byteOnOffer s) false] := by
  rw [openEvents_emit hp, openEvents_emit (s := Machine.deliverMore s) hp, deliverMore_optr, h.optr_succ_toNat hp]
  exact partialEvents_succ (h.byteOnOffer_eq hp)

/-! ### A request under way -/

/-- The block has accepted the request `op`, `w` and the sink has taken `n` bytes of its string, none of them the
last; the record was `l` before it and `script` is ahead. -/
structure UnderWay (l : List Event) (op : Op) (w : Words) (n : Nat) (script : List Edge) (s : State) : Prop where
  regs      : RegsOk s
  phase     : s.ph = .emit
  operation : s.op = op
  operand   : s.w = w
  taken     : s.optr.toNat = n
  record    : s.events = l ++ partialEvents op w n
  ahead     : s.script = script

/-- An accept step puts its request under way (R192). -/
theorem underWay_of_accept {s : State} {e : Edge} {rest : List Edge} (hs : s.script = e :: rest) (hp : s.ph = .idle)
    (hr : e.rst = false) (hv : e.reqValid = true) :
    ∃ t, step s = .next t ∧ UnderWay s.events e.op e.words 0 rest t := by
  have he : edgeOf s = e := edgeOf_cons s e rest hs
  have hstep := step_accepts s hp (he ▸ hr) (he ▸ hv)
  rw [he] at hstep
  exact ⟨_, hstep, regsOk_accept _ _ _ rfl, rfl, rfl, rfl, rfl, by simp, by simp [hs]⟩

section
variable {l : List Event} {op : Op} {w : Words} {n : Nat} {x : Edge} {rest : List Edge} {s : State}

/-- The length register of a request under way (R38). -/
theorem UnderWay.olen_toNat {script : List Edge} (h : UnderWay l op w n script s) :
    s.olen.toNat = (textOf op w).length := by
  rw [← h.operation, ← h.operand]
  exact h.regs.textLength (h.regs.dv_of_emit h.phase)

/-- The byte on offer of a request under way (R34, R38). -/
theorem UnderWay.byte {script : List Edge} (h : UnderWay l op w n script s) :
    (textOf op w)[n]? = some (byteOnOffer s) := by
  rw [← h.operation, ← h.operand, ← h.taken]
  exact h.regs.byteOnOffer_eq h.phase

/-- A stall leaves a request as it is (R53). -/
theorem UnderWay.stall (h : UnderWay l op w n (x :: rest) s) (hx : x.calm) (hy : x.snkReady = false) :
    step s = .next (tick s) ∧ UnderWay l op w n rest (tick s) :=
  ⟨step_stalled_edge h.ahead h.phase hx hy, { h with regs := h.regs.tick, ahead := by simp [h.ahead] }⟩

/-- A byte that is not the last advances a request by one (R54). -/
theorem UnderWay.more (h : UnderWay l op w n (x :: rest) s) (hx : x.calm) (hy : x.snkReady = true)
    (hn : n + 1 < (textOf op w).length) :
    step s = .next (deliverMore (tick s)) ∧ UnderWay l op w (n + 1) rest (deliverMore (tick s)) := by
  have hlt : (tick s).optr.toNat + 1 < (tick s).olen.toNat := by
    rw [tick_optr, tick_olen, h.taken, h.olen_toNat]
    exact hn
  refine ⟨deliver_of_lt hlt ▸ step_taken_edge h.ahead h.phase hx hy, ?_⟩
  refine { h with regs := h.regs.tick.deliverMore h.phase hlt.ne, taken := ?_, record := ?_, ahead := ?_ }
  · rw [deliverMore_optr, optr_succ_toNat_of_lt hlt, tick_optr, h.taken]
  · rw [deliverMore_events, tick_events, h.record, partialEvents_succ h.byte, List.append_assoc]
    rfl
  · simp [h.ahead]

/-- The last byte makes a request whole and completes it (R55, R216). -/
theorem UnderWay.last (h : UnderWay l op w n (x :: rest) s) (hx : x.calm) (hy : x.snkReady = true)
    (hn : n + 1 = (textOf op w).length) :
    step s = .next (deliverLast (tick s)) ∧ (deliverLast (tick s)).events =
      l ++ (.accept op (operandOf w) :: stringEvents (textOf op w) ++ [.done false 0]) := by
  have heq : (tick s).optr.toNat + 1 = (tick s).olen.toNat := by
    rw [tick_optr, tick_olen, h.taken, h.olen_toNat]
    exact hn
  refine ⟨deliver_of_eq heq ▸ step_taken_edge h.ahead h.phase hx hy, ?_⟩
  rw [deliverLast_events, tick_events, h.record, ← partialEvents_last h.byte hn]
  simp only [List.append_assoc]
  rfl

end

/-- Edges without reset and failure, at which the sink takes fewer bytes than are left, advance a request by the bytes
taken, however often the sink stalls and whatever the requester does (R195, R252). -/
theorem UnderWay.run {l : List Event} {op : Op} {w : Words} {rest : List Edge} (es : List Edge) {n : Nat} {s : State}
    (h : UnderWay l op w n (es ++ rest) s) (hc : ∀ x ∈ es, x.calm)
    (hn : n + es.countP (·.snkReady) < (textOf op w).length) :
    ∃ t, Host.Core.run Sys2Proof.core es.length s = .next t ∧
      UnderWay l op w (n + es.countP (·.snkReady)) rest t := by
  induction es generalizing n s with
  | nil => exact ⟨s, rfl, h⟩
  | cons x es ih =>
    obtain ⟨hx, hes⟩ := List.forall_mem_cons.mp hc
    rw [List.length_cons]
    cases hy : x.snkReady with
    | false =>
      obtain ⟨hstep, hu⟩ := h.stall hx hy
      rw [List.countP_cons_of_neg (by simp [hy])] at hn ⊢
      rw [run_succ _ _ _ hstep]
      exact ih hu hes hn
    | true =>
      rw [List.countP_cons_of_pos (by simp [hy]), ← Nat.add_assoc, Nat.add_right_comm] at hn ⊢
      obtain ⟨hstep, hu⟩ := h.more hx hy (by omega)
      rw [run_succ _ _ _ hstep]
      exact ih hu hes hn

/-- Stalling edges only use up the script, once the pulse of an earlier request has ended (R53). -/
theorem run_stalled (es rest : List Edge) {s : State} (hp : s.ph = .emit) (hc : s.cpl = none)
    (hs : s.script = es ++ rest) (hes : ∀ x ∈ es, x.calm ∧ x.snkReady = false) :
    Host.Core.run Sys2Proof.core es.length s = .next { s with script := rest } := by
  induction es generalizing s with
  | nil =>
    have hrest : s.script = rest := hs
    rw [← hrest]
    rfl
  | cons x es ih =>
    obtain ⟨⟨hx, hy⟩, hes⟩ := List.forall_mem_cons.mp hes
    rw [List.length_cons, run_succ _ _ _ (step_stalled_edge hs hp hx hy),
      ih (s := tick s) hp rfl (by simp [hs]) hes, tick, hc]

end Sys2Proof.Machine
end

section
/-! The obligations about what is delivered to the sink and what the record of events holds (20_memory). -/

namespace Sys2Proof.Machine

/-- Settles O52, by the rows of R218: each row that ends in IDLE closes what is in progress into one `Block`, each other
row adds to it. -/
theorem everyStepKeepsTheShapeOfTheTrace : Obligations.EveryStepKeepsTheShapeOfTheTrace := by
  intro s t h htr hstep
  rcases step_cases s t hstep with ⟨-, rfl⟩ | ⟨-, hp, -, rfl⟩ | ⟨-, hp, -, -, ⟨hl, rfl⟩ | ⟨-, rfl⟩⟩ |
    ⟨-, hp, -, -, rfl⟩ | ⟨-, hp, -, op, w, -, -, rfl⟩ | ⟨-, hp, -, rfl⟩
  · refine htr.close [.reset] ?_ rfl rfl
    cases hp : s.ph with
    | idle => rw [openEvents_idle hp]; exact .reset
    | emit => rw [openEvents_emit hp]; exact .cut _ _ _ (h.optr_lt_text hp)
  · refine htr.close [.fail (edgeOf s).snkCode, .done true (edgeOf s).snkCode] ?_ rfl (List.append_assoc ..)
    rw [openEvents_emit hp]
    exact .failed _ _ _ _ (h.optr_lt_text hp)
  · refine htr.close [.byte (byteOnOffer s) true, .done false 0] ?_ rfl (List.append_assoc ..)
    rw [← List.singleton_append, ← List.append_assoc, h.openEvents_last hp hl]
    exact .whole _ _
  · exact htr.extend _ (h.tick.openEvents_deliverMore hp) rfl
  · exact htr.extend [] (List.append_nil _).symm (List.append_nil _).symm
  · refine htr.extend [.accept op (operandOf w)] ?_ rfl
    rw [openEvents_idle hp, openEvents_emit rfl]
    exact partialEvents_zero op w
  · exact htr.extend [] (List.append_nil _).symm (List.append_nil _).symm

/-- Settles O53: the accept step, then every edge but the last (`UnderWay.run`), then the last byte. -/
theorem aFairSinkGetsTheWholeString : Obligations.AFairSinkGetsTheWholeString := by
  intro s e es rest hp hr hv hs hcalm hcount ⟨x, hlast, hy⟩
  obtain ⟨init, rfl⟩ := List.getLast?_eq_some_iff.mp hlast
  obtain ⟨hinit, hx⟩ := List.forall_mem_append.mp hcalm
  have hn : init.countP (·.snkReady) + 1 = e.text.length := by simpa [hy] using hcount
  obtain ⟨u, hstep, hu⟩ := underWay_of_accept hs hp hr hv
  rw [List.append_assoc] at hu
  obtain ⟨v, hrun, hw⟩ := hu.run init hinit (by rw [Nat.zero_add]; exact Nat.lt_of_succ_le hn.le)
  rw [Nat.zero_add] at hw
  obtain ⟨hfin, hev⟩ := hw.last (hx x List.mem_cons_self) hy hn
  rw [Edge.words, operandOf_wordsOf] at hev
  refine ⟨deliverLast (tick v), ?_, ?_, ?_, rfl, rfl, rfl, ?_⟩
  · rw [run_succ _ _ _ hstep, List.length_append, run_add _ _ _ _ hrun]
    exact run_succ 0 _ _ hfin
  · rw [hev]
    simp [Edge.text, Edge.words]
  · rw [hev, sinkContents_append, sinkContents_whole]
    rfl
  · exact congrArg List.tail hw.ahead

/-- Settles O56: the first stalling edge ends the pulse, the others only use up the script (`run_stalled`). -/
theorem aStallingSinkHoldsTheBlock : Obligations.AStallingSinkHoldsTheBlock := by
  intro s es rest hp hne hs hes
  cases es with
  | nil => exact absurd rfl hne
  | cons x es =>
    obtain ⟨⟨hx, hy⟩, hes⟩ := List.forall_mem_cons.mp hes
    rw [List.length_cons, run_succ _ _ _ (step_stalled_edge hs hp hx hy)]
    exact run_stalled es rest hp rfl (by simp [hs]) hes

/-- Settles O20: rows 4 and 6 of R218 are `tick`. -/
theorem stallAndIdleChangeNothing : Obligations.StallAndIdleChangeNothing := by
  intro s hr h
  have hstep : step s = .next (tick s) := by
    rcases h with ⟨hp, hf, hy⟩ | ⟨hp, hv⟩
    · exact step_stalled hp hr hf hy
    · exact step_quiet s hr hp hv
  exact ⟨_, hstep, rfl, rfl, dataKept_tick s, rfl, rfl, rfl⟩

/-- Settles O21: the taken byte is not the last, and `OPTR + 1` does not wrap below `OLEN`. -/
theorem deliverAByteThatIsNotTheLast : Obligations.DeliverAByteThatIsNotTheLast := by
  intro s b hp hr hf hy hl hb
  have hstep := step_taken hp hr hf hy
  rw [deliver_of_lt (s := tick s) hl] at hstep
  refine ⟨_, hstep, ?_, optr_succ_toNat_of_lt hl, hp, rfl, dataKept_trans (dataKept_tick s) (dataKept_deliverMore _)⟩
  rw [deliverMore_events, byteOnOffer_tick_of_get hb, tick_events]

/-- Settles O22: the taken byte is the last. -/
theorem deliverTheLastByte : Obligations.DeliverTheLastByte := by
  intro s b hp hr hf hy hl hb
  have hstep := step_taken hp hr hf hy
  rw [deliver_of_eq (s := tick s) hl] at hstep
  refine ⟨_, hstep, ?_, rfl, rfl, rfl, dataKept_trans (dataKept_tick s) (dataKept_deliverLast _)⟩
  rw [deliverLast_events, byteOnOffer_tick_of_get hb, tick_events, List.append_assoc]
  rfl

end Sys2Proof.Machine
end

section
/-! SUPPORT. The two levels of decoding and the encoder undo one another (R70, R94), and running an instruction is
offering its own words and string (R190). -/

namespace Sys2Proof.Machine

/-! ### The encoder's fields -/

/-- The operation and the words of an instruction stand in the fields of its encoding (R70, R74). -/
theorem encode_fields (i : Instr) : Laws.EncodeOp.Statement i := by
  cases i with
  | enc4 ign x => exact Laws.EncodeOp.enc4 ign x
  | enc6 w => exact Laws.EncodeOp.enc6 w
  | enc6Mapped w3 => exact Laws.EncodeOp.enc6Mapped w3
  | enc6Compat w3 => exact Laws.EncodeOp.enc6Compat w3
  | enc6Generic w => exact Laws.EncodeOp.enc6Generic w

/-- The operand of an ENC4 is its ignored bits, then `x` (R75). -/
theorem operandOf_enc4_words (ign : BitVec 96) (x : Word) : operandOf (Instr.enc4 ign x).words = ign ++ x := by
  rw [enc4_words, operandOf_wordsOf]

/-! ### The second level -/

/-- A mapped operand is its last word behind two zero words and `0xffff` (R182). -/
theorem eq_of_isMapped {w : Words} (h : isMapped w = true) : w = ⟨0, 0, 0x0000ffff, w.w3⟩ := by
  cases w
  simp_all [isMapped]

/-- A compatible operand is its last word behind zeros (R183). -/
theorem eq_of_isCompat {w : Words} (h : isCompat w = true) : w = ⟨0, 0, 0, w.w3⟩ ∧ 0xffff < w.w3.toNat := by
  cases w
  simp_all [isCompat]

/-- What the second level of decoding makes of an ENC6: the sub-case its operand selects (R94, R181 to R183). -/
theorem refineCase_enc6_cases (w : Words) :
    (w = ⟨0, 0, 0x0000ffff, w.w3⟩ ∧ refineCase (.enc6 w) = .enc6Mapped w.w3) ∨
      (w = ⟨0, 0, 0, w.w3⟩ ∧ 0xffff < w.w3.toNat ∧ refineCase (.enc6 w) = .enc6Compat w.w3) ∨
      (isGeneric w = true ∧ refineCase (.enc6 w) = .enc6Generic w) := by
  cases hm : isMapped w with
  | true => exact .inl ⟨eq_of_isMapped hm, by simp [refineCase, hm]⟩
  | false =>
    cases hc : isCompat w with
    | true =>
      obtain ⟨hw, h3⟩ := eq_of_isCompat hc
      exact .inr (.inl ⟨hw, h3, by simp [refineCase, hm, hc]⟩)
    | false => exact .inr (.inr ⟨by simp [isGeneric, hm, hc], by simp [refineCase, hm, hc]⟩)

/-- The second level keeps the operation. -/
@[simp] theorem refineCase_op (i : Instr) : (refineCase i).op = i.op := by
  cases i with
  | enc6 w => rcases refineCase_enc6_cases w with ⟨-, h⟩ | ⟨-, -, h⟩ | ⟨-, h⟩ <;> rw [h] <;> rfl
  | _ => rfl

/-- The second level keeps the operand. -/
@[simp] theorem refineCase_words (i : Instr) : (refineCase i).words = i.words := by
  cases i with
  | enc6 w =>
    rcases refineCase_enc6_cases w with ⟨hw, h⟩ | ⟨hw, -, h⟩ | ⟨-, h⟩ <;> rw [h]
    · exact hw.symm
    · exact hw.symm
    · rfl
  | _ => rfl

/-- An instruction and what the second level makes of it have one encoding (log 1). -/
theorem encode_refineCase (i : Instr) : encode (refineCase i) = encode i := by
  rw [encode, refineCase_op, refineCase_words, encode]

/-- After the second level no undivided ENC6 is left (R94). -/
theorem refineCase_refined (i : Instr) : (refineCase i).refined = true := by
  cases i with
  | enc6 w => rcases refineCase_enc6_cases w with ⟨-, h⟩ | ⟨-, -, h⟩ | ⟨-, h⟩ <;> rw [h] <;> rfl
  | _ => rfl

/-- The second level selects a sub-case whose constraint the operand meets (R181 to R183). -/
theorem refineCase_wellFormed {i : Instr} (h : i.wellFormed = true) : (refineCase i).wellFormed = true := by
  cases i with
  | enc6 w =>
    rcases refineCase_enc6_cases w with ⟨-, h⟩ | ⟨-, h3, h⟩ | ⟨hg, h⟩ <;> rw [h]
    · rfl
    · exact decide_eq_true h3
    · exact hg
  | _ => exact h

/-- A refined instruction is left as it is by the second level. -/
theorem refineCase_of_refined {i : Instr} (h : i.refined = true) : refineCase i = i := by
  cases i with
  | enc6 w => cases h
  | _ => rfl

/-- The operand of a well-formed sub-case of ENC6 selects that sub-case again (R181 to R183). -/
theorem refineCase_enc6_words {i : Instr} (hop : i.op = .enc6) (h : i.wellFormed = true) :
    refineCase (.enc6 i.words) = refineCase i := by
  cases i with
  | enc4 ign x => cases hop
  | enc6 w => rfl
  | enc6Mapped w3 => simp [refineCase, Instr.words, isMapped]
  | enc6Compat w3 =>
    have h3 : 0xffff < w3.toNat := of_decide_eq_true h
    simp [refineCase, Instr.words, isMapped, isCompat, h3]
  | enc6Generic w =>
    have hg : isMapped w = false ∧ isCompat w = false := by simpa [Instr.wellFormed, isGeneric] using h
    simp [refineCase, Instr.words, hg]

/-! ### Decoding and encoding -/

/-- With the operation bit 0 the first level reads an ENC4 (R74, R75). -/
theorem decodeOp_of_zero {r : Request} (h : reqOpBit r = 0) :
    decodeOp r = .enc4 (BitVec.extractLsb' 32 96 (reqOperand r)) (wordsOf (reqOperand r)).w3 := if_pos h

/-- With the operation bit 1 the first level reads an ENC6 (R74). -/
theorem decodeOp_of_one {r : Request} (h : reqOpBit r = 1) : decodeOp r = .enc6 (wordsOf (reqOperand r)) :=
  if_neg (by rw [h]; decide)

/-- The first level reads an ENC4 back (R75, R94). -/
theorem decodeOp_encode_enc4 (ign : BitVec 96) (x : Word) : decodeOp (encode (.enc4 ign x)) = .enc4 ign x := by
  simp only [decodeOp, encode, Instr.op, opCode, operandOf_enc4_words, wordsOf, reqOpBit_packRequest,
    reqOperand_packRequest, if_true, BitVec.extractLsb'_append_eq_left, BitVec.extractLsb'_append_eq_right]

/-- The first level reads any instruction of the operation ENC6 as the undivided ENC6 of its operand (R94). -/
theorem decodeOp_encode_enc6 {i : Instr} (hop : i.op = .enc6) : decodeOp (encode i) = .enc6 i.words := by
  simp [decodeOp, encode, hop, opCode, wordsOf_operandOf]

/-- Decoding the encoding of a well-formed instruction gives what the second level makes of it (R94, log 1). -/
theorem decode_encode {i : Instr} (h : i.wellFormed = true) : decode (encode i) = refineCase i := by
  cases hop : i.op with
  | enc4 =>
    cases i with
    | enc4 ign x => rw [decode, decodeOp_encode_enc4]
    | _ => cases hop
  | enc6 => rw [decode, decodeOp_encode_enc6 hop, refineCase_enc6_words hop h]

/-- What the first level reads is well-formed: neither of its two answers has a constraint (R76). -/
theorem decodeOp_wellFormed (r : Request) : (decodeOp r).wellFormed = true := by
  unfold decodeOp
  dsimp only
  split <;> rfl

/-- The first level reads the operation and the operand from the fields of the request (R70, R74). -/
theorem decodeOp_fields (r : Request) :
    opCode (decodeOp r).op = reqOpBit r ∧ operandOf (decodeOp r).words = reqOperand r := by
  rcases BitVec.eq_zero_or_eq_one (reqOpBit r) with h | h
  · rw [decodeOp_of_zero h, operandOf_enc4_words, h]
    exact ⟨rfl, (BitVec.extractLsb'_append_extractLsb'_eq_extractLsb' (start₁ := 0) (len₁ := 32) rfl).trans
      BitVec.extractLsb'_eq_self⟩
  · rw [decodeOp_of_one h, h]
    exact ⟨rfl, operandOf_wordsOf _⟩

/-- Encoding what the first level reads gives the request back (R70). -/
theorem encode_decodeOp (r : Request) : encode (decodeOp r) = r := by
  obtain ⟨hop, hw⟩ := decodeOp_fields r
  rw [encode, hop, hw, packRequest_fields]

/-- Encoding what the decoder answers gives the request back (R94). -/
theorem encode_decode (r : Request) : encode (decode r) = r := by
  rw [decode, encode_refineCase, encode_decodeOp]

/-! ### Running an instruction -/

/-- Running what the second level makes of a well-formed instruction offers the instruction's operation and words, with
their family and string (R190, R192). -/
theorem exec_refineCase {i : Instr} (h : i.wellFormed = true) (s : State) :
    exec (refineCase i) s = offer i.op i.words (familyOf i.op i.words) (textOf i.op i.words) s := by
  obtain ⟨hop, hw⟩ := encode_fields i
  rw [← decode_encode h, exec_decode, hop, hw]

/-- The accept step of a string that fits `OB` has every effect of R192 and changes nothing else. -/
theorem acceptEffect_accept (op : Op) (w : Words) (fam : Family) (str : List Byte) (s : State)
    (h : str.length ≤ 39) : AcceptEffect op w fam str s (accept op w fam str s) where
  phase := rfl
  operation := rfl
  operand := rfl
  family := rfl
  gap := rfl
  tags := rfl
  length := by rw [accept_olen, BitVec.toNat_ofNat, Nat.mod_eq_of_lt (by omega)]
  buffer i hi := bufferOf_get str s.draws i hi (by omega)
  pointer := rfl
  valid := rfl
  record := rfl
  inputs := rfl
  pulse := rfl

end Sys2Proof.Machine
end

section
/-! SUPPORT. The characters of every string (R84 to R86), and what stands in the fields of a joined bit vector. -/

namespace Sys2Proof.Machine

/-! ### Characters -/

/-- A decimal digit character is one of the codes `0x30` to `0x39` (R86). -/
theorem decDigit_bounds {n : Nat} (h : n < 10) : 0x30 ≤ (decDigit n).toNat ∧ (decDigit n).toNat ≤ 0x39 := by
  rw [decDigit, BitVec.toNat_ofNat, Nat.mod_eq_of_lt (by omega)]
  omega

/-- A decimal digit character is one of the 18 (R84). -/
theorem decDigit_mem_outputChars {n : Nat} (h : n < 10) : decDigit n ∈ outputChars := by
  revert n
  decide

/-- A hexadecimal digit character is one of the 18, and not the dot (R84, R85). -/
theorem hexDigit_mem_outputChars (n : BitVec 4) : hexDigit n ∈ outputChars ∧ hexDigit n ≠ dot := by
  revert n
  decide

/-- An octet is sent in decimal digits (R100). -/
theorem dec8_digits (v : Byte) : ∀ b ∈ dec8 v, ∃ n < 10, b = decDigit n := by
  have h100 : v.toNat / 100 < 10 := by omega
  have h10 : v.toNat / 10 % 10 < 10 := Nat.mod_lt _ (by decide)
  have h1 : v.toNat % 10 < 10 := Nat.mod_lt _ (by decide)
  unfold dec8
  dsimp only
  split
  · simp only [List.forall_mem_cons]
    exact ⟨⟨_, h100, rfl⟩, ⟨_, h10, rfl⟩, ⟨_, h1, rfl⟩, List.forall_mem_nil _⟩
  · split
    · simp only [List.forall_mem_cons]
      exact ⟨⟨_, h10, rfl⟩, ⟨_, h1, rfl⟩, List.forall_mem_nil _⟩
    · exact List.forall_mem_singleton.mpr ⟨_, h1, rfl⟩

/-- A dotted-decimal text is dots and decimal digits (R103). -/
theorem v4Text_chars (x : Word) : ∀ b ∈ v4Text x, b = dot ∨ ∃ n < 10, b = decDigit n := by
  have hdot : ∀ b ∈ [dot], b = dot ∨ ∃ n < 10, b = decDigit n := by simp
  have hdec (v : Byte) : ∀ b ∈ dec8 v, b = dot ∨ ∃ n < 10, b = decDigit n := fun b hb => .inr (dec8_digits v b hb)
  simp only [v4Text, octetsOf, List.map_cons, List.map_nil, List.intercalate_cons_cons, List.intercalate_singleton,
    List.forall_mem_append]
  exact ⟨⟨hdec _, hdot⟩, ⟨hdec _, hdot⟩, ⟨hdec _, hdot⟩, hdec _⟩

/-- A group is sent in hexadecimal digits (R140). -/
theorem hex16_digits (v : Group) : ∀ b ∈ hex16 v, ∃ n, b = hexDigit n := by
  unfold hex16
  dsimp only
  split
  · simp
  · split
    · simp
    · split <;> simp

/-- A word is sent in colons and hexadecimal digits, whatever its tag (R161 to R168). -/
theorem emitTag_chars (t : Tag) (w : Word) : ∀ b ∈ emitTag t w, b = colon ∨ ∃ n, b = hexDigit n := by
  have hcolon : ∀ b ∈ [colon], b = colon ∨ ∃ n, b = hexDigit n := by simp
  have hhex (v : Group) : ∀ b ∈ hex16 v, b = colon ∨ ∃ n, b = hexDigit n := fun b hb => .inr (hex16_digits v b hb)
  cases t with
  | chl => simp only [emitTag_chl, List.forall_mem_append]; exact ⟨⟨⟨hcolon, hhex _⟩, hcolon⟩, hhex _⟩
  | hl => simp only [emitTag_hl, List.forall_mem_append]; exact ⟨⟨hhex _, hcolon⟩, hhex _⟩
  | nop => exact List.forall_mem_nil _
  | col => exact hcolon
  | clo => simp only [emitTag_clo, List.forall_mem_append]; exact ⟨hcolon, hhex _⟩
  | cc => simp
  | chc => simp only [emitTag_chc, List.forall_mem_append]; exact ⟨⟨hcolon, hhex _⟩, hcolon⟩
  | hc => simp only [emitTag_hc, List.forall_mem_append]; exact ⟨hhex _, hcolon⟩

/-- A generic text is colons and hexadecimal digits (R169). -/
theorem genText_chars (w : Words) : ∀ b ∈ genText w, b = colon ∨ ∃ n, b = hexDigit n := by
  simp only [genText, emitWords, List.forall_mem_append]
  exact ⟨⟨⟨emitTag_chars _ _, emitTag_chars _ _⟩, emitTag_chars _ _⟩, emitTag_chars _ _⟩

/-- A dotted-decimal text has none but the 18 characters (R84). -/
theorem v4Text_mem_outputChars (x : Word) : ∀ b ∈ v4Text x, b ∈ outputChars := by
  intro b hb
  rcases v4Text_chars x b hb with rfl | ⟨n, hn, rfl⟩
  · decide
  · exact decDigit_mem_outputChars hn

/-- A generic text has none but the 18 characters, and no dot (R84, R107). -/
theorem genText_mem_outputChars (w : Words) : ∀ b ∈ genText w, b ∈ outputChars ∧ b ≠ dot := by
  intro b hb
  rcases genText_chars w b hb with rfl | ⟨n, rfl⟩
  · decide
  · exact hexDigit_mem_outputChars n

/-- The string of a generic operand is its generic text (R184, R190). -/
theorem textOf_of_isGeneric {w : Words} (h : isGeneric w = true) : textOf .enc6 w = genText w := by
  have hg : isMapped w = false ∧ isCompat w = false := by simpa [isGeneric] using h
  simp [textOf, familyOf, hg]

/-! ### Fields of joined bit vectors -/

/-- The bits of a slice (R71 to R73). -/
theorem getLsbD_slice {n : Nat} (x : BitVec n) (i len j : Nat) (h : j < len) :
    (BitVec.extractLsb' i len x).getLsbD j = x.getLsbD (i + j) := by
  rw [BitVec.getLsbD_extractLsb', decide_eq_true h, Bool.true_and]

/-- A slice of a slice is a slice. -/
theorem slice_of_slice {n : Nat} (x : BitVec n) (i j len len' : Nat) (h : j + len ≤ len') :
    BitVec.extractLsb' j len (BitVec.extractLsb' i len' x) = BitVec.extractLsb' (i + j) len x := by
  apply BitVec.eq_of_getLsbD_eq
  intro k hk
  rw [getLsbD_slice _ _ _ _ hk, getLsbD_slice _ _ _ _ (by omega), getLsbD_slice _ _ _ _ hk, Nat.add_assoc]

/-- The bits of an entry of a list of slices. -/
theorem getLsbD_of_slices {n : Nat} (x : BitVec n) (start : Nat → Nat) (count len i j : Nat) {v : BitVec len}
    (h : ((List.range count).map fun k => BitVec.extractLsb' (start k) len x)[i]? = some v) (hj : j < len) :
    v.getLsbD j = x.getLsbD (start i + j) := by
  rw [List.getElem?_map, Option.map_eq_some_iff] at h
  obtain ⟨k, hk, rfl⟩ := h
  obtain ⟨-, rfl⟩ := List.getElem?_eq_some_iff.mp hk
  rw [List.getElem_range]
  exact getLsbD_slice x _ len j hj

/-- The groups of an operand are its 16-bit slices, from the most significant one down (R72). -/
theorem groupsOf_wordsOf (a : Operand) :
    groupsOf (wordsOf a) = (List.range 8).map fun i => BitVec.extractLsb' (112 - 16 * i) 16 a := by
  simp [groupsOf, wordsOf, hiOf, loOf, slice_of_slice, List.range_succ]

/-- The octets of a word are its 8-bit slices, from the most significant one down (R73). -/
theorem octetsOf_eq_slices (x : Word) :
    octetsOf x = (List.range 4).map fun i => BitVec.extractLsb' (24 - 8 * i) 8 x := rfl

/-- The high group of two joined groups (R72). -/
theorem hiOf_append (g h : Group) : hiOf (g ++ h) = g := BitVec.extractLsb'_append_eq_left

/-- The low group of two joined groups (R72). -/
theorem loOf_append (g h : Group) : loOf (g ++ h) = h := BitVec.extractLsb'_append_eq_right

/-- The octets of four joined octets (R73). -/
theorem octetsOf_append (o0 o1 o2 o3 : Byte) : octetsOf (o0 ++ o1 ++ o2 ++ o3) = [o0, o1, o2, o3] := by
  simp (disch := decide) only [octetsOf, BitVec.extractLsb'_append_eq_of_le, BitVec.extractLsb'_append_eq_of_add_le,
    Nat.reduceSub, BitVec.extractLsb'_eq_self]

end Sys2Proof.Machine
end

section
/-! The obligations about requests and their encoding (30_encoding). -/

namespace Sys2Proof.Machine

/-- Settles O3: the two levels of decoding undo the encoder (`decode_encode`, `decodeOp_encode_enc4`,
`decodeOp_encode_enc6`). -/
theorem decodeOfEncodeIsTheInstruction : Obligations.DecodeOfEncodeIsTheInstruction := by
  intro i h
  refine ⟨decode_encode h, fun href => ?_, ?_, ?_⟩
  · rw [decode_encode h, refineCase_of_refined href]
  · rintro ign x rfl
    exact decodeOp_encode_enc4 ign x
  · rintro w rfl
    exact decodeOp_encode_enc6 rfl

/-- Settles O4: the decoder's answer is the one meaning, since a refined well-formed instruction is what its encoding
decodes to. -/
theorem everyRequestHasExactlyOneMeaning : Obligations.EveryRequestHasExactlyOneMeaning := by
  intro r
  have hwf : (decode r).wellFormed = true := refineCase_wellFormed (decodeOp_wellFormed r)
  have href : (decode r).refined = true := refineCase_refined _
  refine ⟨⟨decode r, ⟨hwf, href, encode_decode r⟩, ?_⟩, encode_decode r, hwf, href, ?_⟩
  · rintro i ⟨hi, hiref, rfl⟩
    rw [decode_encode hi, refineCase_of_refined hiref]
  · rw [decodeBits, if_pos r.isLt, BitVec.ofNat_toNat, BitVec.setWidth_eq]

/-- Settles O8: both sides offer the operand with its family and string. -/
theorem subCasesRefineEnc6 : Obligations.SubCasesRefineEnc6 :=
  fun w s => (exec_refineCase (i := .enc6 w) rfl s).symm

/-- Settles O9: a dotted-decimal text has at most 15 characters, so it fits `OB`. -/
theorem enc4IsAccepted : Obligations.Enc4IsAccepted := by
  intro ign x s hp
  obtain ⟨-, hlen⟩ := v4Text_length_bounds x
  rw [← enc4_words]
  exact ⟨_, offer_idle _ _ _ _ s hp, acceptEffect_accept _ _ _ _ s (by omega)⟩

/-- Settles O15: by O9 both requests leave the text of `x`, and each its own operand. -/
theorem ignoredBitsDoNotAffectTheString : Obligations.IgnoredBitsDoNotAffectTheString := by
  intro ign ign' x s hp
  obtain ⟨t, hexec, ht⟩ := enc4IsAccepted ign x s hp
  obtain ⟨t', hexec', ht'⟩ := enc4IsAccepted ign' x s hp
  refine ⟨t, t', hexec, hexec', BitVec.eq_of_toNat_eq (ht.length.trans ht'.length.symm), fun i hi => ?_, ?_, ?_⟩
  · rw [ht.length] at hi
    rw [ht.buffer i hi, ht'.buffer i hi]
  · rw [ht.operand, operandOf_wordsOf]
  · rw [ht'.operand, operandOf_wordsOf]

/-- Settles O47: digits and dots in a dotted-decimal text, hexadecimal digits and colons in a generic one, and the two
tokens. -/
theorem onlyTheEighteenCharacters : Obligations.OnlyTheEighteenCharacters := by
  refine ⟨fun op w => ?_, fun w b hb => ?_, fun w h hb => ?_⟩
  · have hv := v4Text_mem_outputChars w.w3
    unfold textOf
    cases familyOf op w with
    | v4 => exact hv
    | generic => exact fun b hb => (genText_mem_outputChars w b hb).1
    | mapped => exact List.forall_mem_append.mpr ⟨by decide, hv⟩
    | compat => exact List.forall_mem_append.mpr ⟨by decide, hv⟩
  · rcases v4Text_chars w.w3 b hb with rfl | ⟨n, hn, rfl⟩
    · exact .inl rfl
    · exact .inr (decDigit_bounds hn)
  · rw [textOf_of_isGeneric h] at hb
    exact (genText_mem_outputChars w dot hb).2 rfl

/-- Settles O1, by decoding the eight words. -/
theorem sampleWordsDecode : Obligations.SampleWordsDecode := by
  unfold Obligations.SampleWordsDecode
  decide

/-- Settles O2: each field is a slice, and the bits of a slice are those of the operand. -/
theorem operandFieldsAreBigEndianSlices : Obligations.OperandFieldsAreBigEndianSlices := by
  refine ⟨fun a j hj => ⟨?_, ?_, ?_, ?_⟩, fun a i j g hg hj => ?_, fun _ => rfl, fun a => ⟨rfl, operandOf_wordsOf a⟩,
    fun x i j o ho hj => ?_, fun _ => rfl, by decide, by decide⟩
  · exact getLsbD_slice a 96 32 j hj
  · exact getLsbD_slice a 64 32 j hj
  · exact getLsbD_slice a 32 32 j hj
  · exact (getLsbD_slice a 0 32 j hj).trans (by rw [Nat.zero_add])
  · exact getLsbD_of_slices a _ 8 16 i j (groupsOf_wordsOf a ▸ hg) hj
  · exact getLsbD_of_slices x _ 4 8 i j (octetsOf_eq_slices x ▸ ho) hj

/-- Settles O5, by the first level; the second keeps the operation. -/
theorem operationBitSelectsTheOperation : Obligations.OperationBitSelectsTheOperation := by
  intro r
  refine ⟨fun h => ⟨_, _, congrArg refineCase (decodeOp_of_zero h)⟩, fun h => ⟨_, decodeOp_of_one h, ?_⟩,
    BitVec.eq_zero_or_eq_one _⟩
  rw [decode, refineCase_op, decodeOp_of_one h]
  rfl

/-- Settles O18, by the priority of R218: each row answers a next state. -/
theorem everyEdgeCompletes : Obligations.EveryEdgeCompletes := by
  intro s
  cases hr : (edgeOf s).rst with
  | true => exact ⟨_, step_reset s hr⟩
  | false =>
    cases hp : s.ph with
    | emit => exact ⟨_, step_emit s hr hp⟩
    | idle =>
      cases hv : (edgeOf s).reqValid with
      | false => exact ⟨_, step_quiet s hr hp hv⟩
      | true => exact ⟨_, step_accepts s hp hr hv⟩

/-- Settles O58: the code fills the low bits of the word, whatever its width. -/
theorem completionWordFields : Obligations.CompletionWordFields := by
  intro s c hc
  refine ⟨_, congrArg (Option.map _) hc, ?_, BitVec.extractLsb'_append_eq_right⟩
  rw [BitVec.getLsbD_append, if_neg (Nat.lt_irrefl _), Nat.sub_self, BitVec.getLsbD_ofBool, decide_eq_true rfl,
    Bool.true_and]

/-- Settles O59: each field of the joined word is found behind the widths of the fields below it. -/
theorem debugWordFields : Obligations.DebugWordFields := by
  refine ⟨fun s => ⟨?_, ?_⟩, by decide⟩
  · simp only [dbgWord, BitVec.getLsbD_append, Nat.reduceLT, Nat.reduceSub, if_false, BitVec.getLsbD_ofBool,
      decide_true, Bool.true_and]
  · simp (disch := decide) only [dbgWord, BitVec.extractLsb'_append_eq_of_le, BitVec.extractLsb'_append_eq_of_add_le,
      Nat.reduceSub, BitVec.extractLsb'_eq_self, and_self]

/-- Settles O60: slicing joined octets or groups gives them back, and the words of an operand join to it. -/
theorem pseudoRequestsExpand : Obligations.PseudoRequestsExpand := by
  refine ⟨fun o0 o1 o2 o3 => ⟨_, rfl, octetsOf_append o0 o1 o2 o3⟩, fun g0 g1 g2 g3 g4 g5 g6 g7 => ⟨_, rfl, ?_⟩,
    fun a => ⟨_, rfl, ?_⟩⟩
  · simp only [groupsOf, hiOf_append, loOf_append]
  · exact congrArg (packRequest 1) (operandOf_wordsOf a)

end Sys2Proof.Machine
end

section
/-! SUPPORT. The digits of an octet (R100, R101), and a dotted-decimal text taken apart at its dots (R103, R104). -/

namespace Sys2Proof.Machine

/-! ### Decimal digits -/

/-- R86. -/
theorem decDigit_toNat {n : Nat} (h : n < 10) : (decDigit n).toNat = 0x30 + n := by
  rw [decDigit, BitVec.toNat_ofNat, Nat.mod_eq_of_lt (by omega)]

/-- Only the digit of zero is `"0"` (R86). -/
theorem eq_zero_of_decDigit {n : Nat} (h : n < 10) (h0 : decDigit n = 0x30) : n = 0 := by
  have hcode : 0x30 + n = 0x30 := (decDigit_toNat h).symm.trans (congrArg BitVec.toNat h0)
  omega

/-- The three rows of R100, each with the range of the octets it is for. -/
theorem dec8_cases (v : Byte) :
    (v.toNat ≤ 9 ∧ dec8 v = [decDigit v.toNat]) ∨
    (10 ≤ v.toNat ∧ v.toNat ≤ 99 ∧ dec8 v = [decDigit (v.toNat / 10), decDigit (v.toNat % 10)]) ∨
    (100 ≤ v.toNat ∧
      dec8 v = [decDigit (v.toNat / 100), decDigit (v.toNat / 10 % 10), decDigit (v.toNat % 10)]) := by
  rcases Nat.lt_or_ge v.toNat 10 with h | h
  · refine .inl ⟨by omega, ?_⟩
    rw [dec8, if_neg (by omega), if_neg (by omega), Nat.mod_eq_of_lt h]
  rcases Nat.lt_or_ge v.toNat 100 with h' | h'
  · refine .inr (.inl ⟨h, by omega, ?_⟩)
    rw [dec8, if_neg (by omega), if_pos h, Nat.mod_eq_of_lt (a := v.toNat / 10) (by omega)]
  · exact .inr (.inr ⟨h', if_pos h'⟩)

/-- How many digits an octet has (R101). -/
theorem dec8_length (v : Byte) :
    (dec8 v).length = if v.toNat ≤ 9 then 1 else if v.toNat ≤ 99 then 2 else 3 := by
  rcases dec8_cases v with ⟨h, hd⟩ | ⟨h, h', hd⟩ | ⟨h, hd⟩
  · rw [hd, if_pos h]
    rfl
  · rw [hd, if_neg (by omega), if_pos h']
    rfl
  · rw [hd, if_neg (by omega), if_neg (by omega)]
    rfl

/-- An octet whose digits begin with `"0"` is zero (R101): the leading digit of a longer one is not zero. -/
theorem eq_zero_of_dec8_head {v : Byte} (h0 : (dec8 v).head? = some 0x30) : v = 0 := by
  apply BitVec.eq_of_toNat_eq
  rcases dec8_cases v with ⟨h, hd⟩ | ⟨h, h', hd⟩ | ⟨h, hd⟩ <;> rw [hd, List.head?_cons, Option.some_inj] at h0
  · exact eq_zero_of_decDigit (by omega) h0
  · exact absurd (eq_zero_of_decDigit (by omega) h0) (by omega)
  · exact absurd (eq_zero_of_decDigit (by omega) h0) (by omega)

/-- The number that decimal digits stand for (R101). -/
def decimalValue (ds : List Byte) : Nat := ds.foldl (fun n b => 10 * n + (b.toNat - 0x30)) 0

/-- The digits of an octet stand for its value (R101). -/
theorem decimalValue_dec8 (v : Byte) : decimalValue (dec8 v) = v.toNat := by
  have h100 : v.toNat / 100 < 10 := by omega
  have h10 : v.toNat / 10 % 10 < 10 := Nat.mod_lt _ (by decide)
  have h1 : v.toNat % 10 < 10 := Nat.mod_lt _ (by decide)
  rcases dec8_cases v with ⟨h, hd⟩ | ⟨h, h', hd⟩ | ⟨h, hd⟩ <;>
    rw [hd] <;> simp only [decimalValue, List.foldl_cons, List.foldl_nil]
  · rw [decDigit_toNat (by omega)]
    omega
  · rw [decDigit_toNat (by omega), decDigit_toNat h1]
    omega
  · rw [decDigit_toNat h100, decDigit_toNat h10, decDigit_toNat h1]
    omega

/-- Different octets have different digits (R101). -/
theorem dec8_injective : Function.Injective dec8 := fun v v' h =>
  BitVec.eq_of_toNat_eq (by rw [← decimalValue_dec8 v, h, decimalValue_dec8])

/-- No digit is a dot (R84, R100). -/
theorem dot_notMem_dec8 (v : Byte) : dot ∉ dec8 v := by
  intro hmem
  obtain ⟨n, hn, hdot⟩ := dec8_digits v dot hmem
  have hbound : 0x30 ≤ dot.toNat := hdot ▸ (decDigit_bounds hn).1
  exact absurd hbound (by decide)

/-! ### Dotted decimal -/

/-- Joining the octets of a word gives it back (R73). -/
theorem append_octets (x : Word) :
    BitVec.extractLsb' 24 8 x ++ BitVec.extractLsb' 16 8 x ++ BitVec.extractLsb' 8 8 x ++
      BitVec.extractLsb' 0 8 x = x := by
  rw [BitVec.extractLsb'_append_extractLsb'_eq_extractLsb' (by rfl),
    BitVec.extractLsb'_append_extractLsb'_eq_extractLsb' (by rfl),
    BitVec.extractLsb'_append_extractLsb'_eq_extractLsb' (by rfl)]
  exact BitVec.extractLsb'_eq_self

/-- Different words have different octets (R73). -/
theorem octetsOf_injective : Function.Injective octetsOf := by
  intro x x' h
  simp only [octetsOf, List.cons.injEq] at h
  obtain ⟨h0, h1, h2, h3, -⟩ := h
  rw [← append_octets x, h0, h1, h2, h3, append_octets]

/-- The four octets of a text, each followed by a dot but the last (R103). -/
theorem v4Text_eq (x : Word) :
    v4Text x =
      dec8 (BitVec.extractLsb' 24 8 x) ++ [dot] ++ dec8 (BitVec.extractLsb' 16 8 x) ++ [dot] ++
        dec8 (BitVec.extractLsb' 8 8 x) ++ [dot] ++ dec8 (BitVec.extractLsb' 0 8 x) := by
  simp only [v4Text, octetsOf, List.map_cons, List.map_nil, List.intercalate_cons_cons, List.intercalate_singleton,
    List.append_assoc]

/-- Splitting a text at its dots gives the digits of its octets, since no digit is a dot. -/
theorem splitOn_dot_v4Text (x : Word) : (v4Text x).splitOn dot = (octetsOf x).map dec8 :=
  List.splitOn_intercalate dot (List.forall_mem_map.mpr fun o _ => dot_notMem_dec8 o) (List.cons_ne_nil _ _)

/-- Different words have different texts (R104). -/
theorem v4Text_injective : Function.Injective v4Text := by
  intro x x' h
  have hsplit : (octetsOf x).map dec8 = (octetsOf x').map dec8 := by
    rw [← splitOn_dot_v4Text, h, splitOn_dot_v4Text]
  exact octetsOf_injective (List.map_injective_iff.mpr dec8_injective hsplit)

/-- Words whose texts have the nine lengths in order: of the octets 0, 10 and 100, each has one digit more. -/
theorem v4Text_sample_lengths :
    [0x00000000, 0x0000000A, 0x00000064, 0x00000A64, 0x00006464, 0x000A6464, 0x00646464, 0x0A646464, 0x64646464].map
      (fun x => (v4Text x).length) = List.range' 7 9 := by decide

/-- Every length from 7 to 15 occurs (R104). -/
theorem exists_v4Text_length {n : Nat} (h7 : 7 ≤ n) (h15 : n ≤ 15) : ∃ x, (v4Text x).length = n := by
  have hmem : n ∈ List.range' 7 9 := List.mem_range'_1.mpr ⟨h7, by omega⟩
  rw [← v4Text_sample_lengths] at hmem
  obtain ⟨x, -, hx⟩ := List.mem_map.mp hmem
  exact ⟨x, hx⟩

end Sys2Proof.Machine
end

section
/-! The obligations about the IPv4 Encoder (40_ipv4_encoder). -/

namespace Sys2Proof.Machine

/-- Settles O34: the digits of each row of R100 read back as the octet, so they tell octets apart. -/
theorem decimalDigitsOfAnOctet : Obligations.DecimalDigitsOfAnOctet :=
  ⟨fun v => ⟨dec8_length v, eq_zero_of_dec8_head, decimalValue_dec8 v⟩, dec8_injective⟩

/-- Settles O35: the digits of the octets are found again between the dots, so a text determines its word. -/
theorem dottedDecimalLengthAndInjectivity : Obligations.DottedDecimalLengthAndInjectivity :=
  ⟨v4Text_eq, fun x => ⟨v4Text_length x, v4Text_length_bounds x⟩, fun _ => exists_v4Text_length, v4Text_injective⟩

end Sys2Proof.Machine
end

section
/-! SUPPORT. What the scan of the gap finder has found after each group (R121), and operands with a given gap
(R127). -/

namespace Sys2Proof.Machine

/-! ### The zero vector -/

/-- The zero vector says which groups are zero (R128). -/
theorem zeroVector_getElem? (w : Words) (i : Nat) : (zeroVector w)[i]? = some true ↔ GroupIsZero w i := by
  simp [zeroVector, GroupIsZero]

/-- Operands with the same zero groups have the same zero vector (R128). -/
theorem zeroVector_congr {w w' : Words} (h : ∀ i, GroupIsZero w i ↔ GroupIsZero w' i) :
    zeroVector w = zeroVector w' := by
  refine List.ext_getElem rfl fun i hi hi' => Bool.eq_iff_iff.mpr ?_
  have hz := (zeroVector_getElem? w i).trans ((h i).trans (zeroVector_getElem? w' i).symm)
  rwa [List.getElem?_eq_getElem hi, List.getElem?_eq_getElem hi', Option.some_inj, Option.some_inj] at hz

/-! ### The invariant of the scan -/

/-- Every group from `s` up to `e` is zero. -/
def ZeroBlock (w : Words) (s e : Nat) : Prop := ∀ i, s ≤ i → i < e → GroupIsZero w i

/-- A block of no groups. -/
theorem zeroBlock_of_le {w : Words} {s e : Nat} (h : e ≤ s) : ZeroBlock w s e := fun i hs he => by omega

/-- A non-empty block is zero if its last group is and the groups before it are. -/
theorem zeroBlock_succ {w : Words} {s e : Nat} (h : s ≤ e) :
    ZeroBlock w s (e + 1) ↔ ZeroBlock w s e ∧ GroupIsZero w e := by
  refine ⟨fun hb => ⟨fun i hs he => hb i hs (by omega), hb e h (by omega)⟩, fun ⟨hb, hz⟩ i hs he => ?_⟩
  rcases Nat.lt_succ_iff_lt_or_eq.mp he with hlt | rfl
  · exact hb i hs hlt
  · exact hz

/-- What R121's loop knows after the first `n` groups: how many zero groups it has just passed, and the leftmost
longest block of zero groups so far. -/
structure ScanOk (w : Words) (n : Nat) (c : Scan) : Prop where
  /-- The blocks of zero groups that reach up to `n` are those that start among the last `run` groups. -/
  trailing : ∀ s, ZeroBlock w s n ↔ n ≤ s + c.run
  run_le : c.run ≤ n
  stop_le : c.be ≤ n
  stop_eq : c.bs + c.bl = c.be
  block : ZeroBlock w c.bs c.be
  /-- No block of zero groups is longer, and none as long starts earlier (R123). -/
  best : ∀ s e, e ≤ n → ZeroBlock w s e → e ≤ s + c.bl ∧ (e = s + c.bl → c.bs ≤ s)

/-- Before the first group nothing is found (R121). -/
theorem scanStart_ok (w : Words) : ScanOk w 0 scanStart where
  trailing s := ⟨fun _ => Nat.zero_le _, fun _ => zeroBlock_of_le (Nat.zero_le s)⟩
  run_le := Nat.le_refl 0
  stop_le := Nat.le_refl 0
  stop_eq := rfl
  block := zeroBlock_of_le (Nat.le_refl 0)
  best s e he _ := ⟨by omega, fun _ => Nat.zero_le s⟩

/-- One more zero group makes every block up to it longer by one. -/
theorem ScanOk.trailing_succ {w : Words} {n : Nat} {c : Scan} (h : ScanOk w n c) (hz : GroupIsZero w n) (s : Nat) :
    ZeroBlock w s (n + 1) ↔ n + 1 ≤ s + (c.run + 1) := by
  rcases Nat.lt_or_ge n s with hs | hs
  · exact ⟨fun _ => by omega, fun _ => zeroBlock_of_le hs⟩
  · rw [zeroBlock_succ hs, h.trailing s]
    exact ⟨fun ⟨hle, _⟩ => by omega, fun hle => ⟨by omega, hz⟩⟩

/-- A zero group makes the run that ends at it longer, and that run is the best if it is longer than the best before
(R121, R123). -/
theorem ScanOk.scanGroup_zero {w : Words} {n : Nat} {c : Scan} (h : ScanOk w n c) (hz : GroupIsZero w n) :
    ScanOk w (n + 1) (scanGroup n true c) := by
  have htrailing := h.trailing_succ hz
  have hrun := h.run_le
  have hstop := h.stop_le
  have heq := h.stop_eq
  rw [scanGroup, if_pos rfl]
  dsimp only
  split
  case isTrue hlonger =>
    refine ⟨htrailing, by dsimp only; omega, Nat.le_refl _, by dsimp only; omega,
      (htrailing _).mpr (by dsimp only; omega), fun s e he hb => ?_⟩
    dsimp only
    rcases Nat.le_succ_iff.mp he with hle | rfl
    · have := h.best s e hle hb
      omega
    · have := (htrailing s).mp hb
      omega
  case isFalse hshorter =>
    refine ⟨htrailing, by dsimp only; omega, by dsimp only; omega, heq, h.block, fun s e he hb => ?_⟩
    dsimp only
    rcases Nat.le_succ_iff.mp he with hle | rfl
    · exact h.best s e hle hb
    · have := (htrailing s).mp hb
      omega

/-- A group that is not zero ends the run and leaves the best one as it is (R121). -/
theorem ScanOk.scanGroup_nonzero {w : Words} {n : Nat} {c : Scan} (h : ScanOk w n c) (hz : ¬ GroupIsZero w n) :
    ScanOk w (n + 1) (scanGroup n false c) := by
  have hempty : ∀ s, ZeroBlock w s (n + 1) ↔ n + 1 ≤ s := fun s =>
    ⟨fun hb => Nat.lt_of_not_le fun hs => hz (hb n hs (Nat.lt_succ_self n)), zeroBlock_of_le⟩
  have hstop := h.stop_le
  have heq := h.stop_eq
  refine ⟨hempty, Nat.zero_le _, Nat.le_succ_of_le hstop, heq, h.block, fun s e he hb => ?_⟩
  rcases Nat.le_succ_iff.mp he with hle | rfl
  · exact h.best s e hle hb
  · have hs := (hempty s).mp hb
    change n + 1 ≤ s + c.bl ∧ (n + 1 = s + c.bl → c.bs ≤ s)
    omega

/-- The loop keeps the invariant over the groups it still has to read (R121). -/
theorem ScanOk.scanGroups {w : Words} {zs : List Bool} {n : Nat} {c : Scan} (h : ScanOk w n c)
    (hzs : ∀ k, zs[k]? = some true ↔ GroupIsZero w (n + k)) :
    ScanOk w (n + zs.length) (scanGroups n zs c) := by
  induction zs generalizing n c with
  | nil => exact h
  | cons z rest ih =>
    have hhead : z = true ↔ GroupIsZero w n := by simpa using hzs 0
    have hstep : ScanOk w (n + 1) (scanGroup n z c) := by
      cases z with
      | true => exact h.scanGroup_zero (hhead.mp rfl)
      | false => exact h.scanGroup_nonzero fun hz => Bool.false_ne_true (hhead.mpr hz)
    have hrest : ∀ k, rest[k]? = some true ↔ GroupIsZero w (n + 1 + k) := fun k => by
      simpa [Nat.add_assoc, Nat.add_comm 1] using hzs (k + 1)
    rw [List.length_cons, Nat.add_comm rest.length, ← Nat.add_assoc]
    exact ih hstep hrest

/-! ### The result of the scan -/

/-- The gap is taken from a scan that has seen all eight groups (R121). -/
theorem gapFind_eq_gapOfScan (w : Words) : ∃ c, ScanOk w 8 c ∧ gapFind w = gapOfScan c := by
  refine ⟨_, (scanStart_ok w).scanGroups (zs := zeroVector w) fun k => ?_, rfl⟩
  rw [zeroVector_getElem?, Nat.zero_add]

/-- The best block is a whole zero run: with a zero group next to it, it would not be the longest (R125). -/
theorem ScanOk.isZeroRun {w : Words} {c : Scan} (h : ScanOk w 8 c) (hpos : 0 < c.bl) : IsZeroRun w c.bs c.be := by
  have hstop := h.stop_le
  have heq := h.stop_eq
  refine ⟨by omega, hstop, h.block, Nat.eq_zero_or_pos c.bs |>.imp_right fun hbs hz => ?_,
    Nat.eq_or_lt_of_le hstop |>.imp_right fun hbe hz => ?_⟩
  · have hlonger : ZeroBlock w (c.bs - 1) c.be := fun i hs he => by
      rcases Nat.eq_or_lt_of_le hs with rfl | hlt
      · exact hz
      · exact h.block i (by omega) he
    have := (h.best _ _ hstop hlonger).1
    omega
  · have hlonger : ZeroBlock w c.bs (c.be + 1) := (zeroBlock_succ (by omega)).mpr ⟨h.block, hz⟩
    have := (h.best _ _ hbe hlonger).1
    omega

/-- No block of two zero groups: no gap (R124). -/
theorem gapOfScan_of_lt {c : Scan} (h : c.bl < 2) : gapOfScan c = ⟨0, 0⟩ := if_neg (by omega)

/-- A block of two zero groups or more is the gap; its bounds fit the four bits of `GS` and `GE` (R24, R121). -/
theorem ScanOk.gapOfScan_bounds {w : Words} {c : Scan} (h : ScanOk w 8 c) (h2 : 2 ≤ c.bl) :
    (gapOfScan c).start.toNat = c.bs ∧ (gapOfScan c).stop.toNat = c.be := by
  have hstop := h.stop_le
  have heq := h.stop_eq
  rw [gapOfScan, if_pos h2]
  exact ⟨Nat.mod_eq_of_lt (by omega), Nat.mod_eq_of_lt (by omega)⟩

/-- With no zero run of two groups there is no gap (R124, R125). -/
theorem gapFind_eq_zero {w : Words} (h : ∀ s e, IsZeroRun w s e → e < s + 2) : gapFind w = ⟨0, 0⟩ := by
  obtain ⟨c, hc, hgap⟩ := gapFind_eq_gapOfScan w
  rcases Nat.lt_or_ge c.bl 2 with h2 | h2
  · rw [hgap, gapOfScan_of_lt h2]
  · have hshort := h _ _ (hc.isZeroRun (by omega))
    have heq := hc.stop_eq
    omega

/-- With a zero run of two groups the gap is the leftmost of the longest zero runs (R123, R125). -/
theorem gapFind_isLeftmostLongest {w : Words} {s e : Nat} (h : IsZeroRun w s e) (h2 : s + 2 ≤ e) :
    IsZeroRun w (gapFind w).start.toNat (gapFind w).stop.toNat ∧
    e - s ≤ (gapFind w).stop.toNat - (gapFind w).start.toNat ∧
    (e - s = (gapFind w).stop.toNat - (gapFind w).start.toNat → (gapFind w).start.toNat ≤ s) := by
  obtain ⟨c, hc, hgap⟩ := gapFind_eq_gapOfScan w
  obtain ⟨-, he, hblock, -⟩ := h
  obtain ⟨hlong, hleft⟩ := hc.best s e he hblock
  obtain ⟨hstart, hstop⟩ := hc.gapOfScan_bounds (by omega)
  have heq := hc.stop_eq
  rw [hgap, hstart, hstop]
  exact ⟨hc.isZeroRun (by omega), by omega, fun hlen => hleft (by omega)⟩

/-! ### The 29 gaps -/

/-- What `gapLegal` tests (R122, R127). -/
theorem gapLegal_iff (g : Gap) :
    gapLegal g = true ↔ g = ⟨0, 0⟩ ∨ (g.start.toNat + 2 ≤ g.stop.toNat ∧ g.stop.toNat ≤ 8) := by
  simp [gapLegal]

/-- Group `i` of the sample operand of a gap: zero inside the gap, 1 outside (R127). -/
def sampleGroup (g : Gap) (i : Nat) : Group := if g.start.toNat ≤ i ∧ i < g.stop.toNat then 0 else 1

/-- An operand whose zero groups are those of the gap (R127). -/
def sampleWords (g : Gap) : Words where
  w0 := sampleGroup g 0 ++ sampleGroup g 1
  w1 := sampleGroup g 2 ++ sampleGroup g 3
  w2 := sampleGroup g 4 ++ sampleGroup g 5
  w3 := sampleGroup g 6 ++ sampleGroup g 7

theorem groupsOf_sampleWords (g : Gap) : groupsOf (sampleWords g) = (List.range 8).map (sampleGroup g) := by
  simp only [groupsOf, sampleWords, hiOf_append, loOf_append]
  rfl

/-- The zero groups of the sample operand are those of the gap. -/
theorem groupIsZero_sampleWords {g : Gap} (h8 : g.stop.toNat ≤ 8) (i : Nat) :
    GroupIsZero (sampleWords g) i ↔ g.start.toNat ≤ i ∧ i < g.stop.toNat := by
  have hgroup : sampleGroup g i = 0 ↔ g.start.toNat ≤ i ∧ i < g.stop.toNat := by simp [sampleGroup]
  rw [GroupIsZero, groupsOf_sampleWords, List.getElem?_map]
  rcases Nat.lt_or_ge i 8 with hi | hi
  · rw [List.getElem?_range hi, Option.map_some, Option.some_inj, hgroup]
  · rw [List.getElem?_eq_none (by simpa using hi)]
    exact ⟨nofun, fun ⟨_, hlt⟩ => by omega⟩

/-- A zero run of the sample operand lies inside the gap. -/
theorem sampleWords_run_within {g : Gap} (h8 : g.stop.toNat ≤ 8) {s e : Nat} (h : IsZeroRun (sampleWords g) s e) :
    g.start.toNat ≤ s ∧ s < e ∧ e ≤ g.stop.toNat := by
  obtain ⟨hlt, -, hblock, -⟩ := h
  have hfirst := (groupIsZero_sampleWords h8 s).mp (hblock s (Nat.le_refl s) hlt)
  have hlast := (groupIsZero_sampleWords h8 (e - 1)).mp (hblock (e - 1) (by omega) (by omega))
  omega

/-- A gap that is present is a zero run of its sample operand. -/
theorem sampleWords_isZeroRun {g : Gap} (hlt : g.start.toNat < g.stop.toNat) (h8 : g.stop.toNat ≤ 8) :
    IsZeroRun (sampleWords g) g.start.toNat g.stop.toNat := by
  refine ⟨hlt, h8, fun i hs he => (groupIsZero_sampleWords h8 i).mpr ⟨hs, he⟩, ?_, .inr ?_⟩
  · rw [groupIsZero_sampleWords h8]
    omega
  · rw [groupIsZero_sampleWords h8]
    omega

/-- The gap finder returns the gap of a sample operand, whose only zero run it is (R127). -/
theorem gapFind_sampleWords {g : Gap} (h : gapLegal g = true) : gapFind (sampleWords g) = g := by
  rcases (gapLegal_iff g).mp h with rfl | ⟨h2, h8⟩
  · refine gapFind_eq_zero fun s e hrun => ?_
    obtain ⟨-, hlt, hle⟩ := sampleWords_run_within (g := ⟨0, 0⟩) (Nat.zero_le 8) hrun
    exact absurd (Nat.lt_of_lt_of_le hlt hle) (Nat.not_lt_zero s)
  · obtain ⟨hrun, hlong, -⟩ := gapFind_isLeftmostLongest (sampleWords_isZeroRun (by omega) h8) h2
    obtain ⟨hstart, -, hstop⟩ := sampleWords_run_within h8 hrun
    have hs : (gapFind (sampleWords g)).start = g.start := BitVec.eq_of_toNat_eq (by omega)
    have he : (gapFind (sampleWords g)).stop = g.stop := BitVec.eq_of_toNat_eq (by omega)
    exact congrArg₂ Gap.mk hs he

/-- The results of the gap finder are the legal gaps (R127). -/
theorem exists_gapFind_eq_iff (g : Gap) : (∃ w, gapFind w = g) ↔ gapLegal g = true := by
  refine ⟨?_, fun h => ⟨sampleWords g, gapFind_sampleWords h⟩⟩
  rintro ⟨w, rfl⟩
  exact gapFind_legal w

/-- Of the 256 values of `(GS, GE)`, the legal ones stand in the classification table (R148). -/
theorem gapLegal_iff_mem_table (g : Gap) : gapLegal g = true ↔ g ∈ classificationTable.map (·.1) := by
  have hall : ∀ s e : BitVec 4, gapLegal ⟨s, e⟩ = true ↔ (⟨s, e⟩ : Gap) ∈ classificationTable.map (·.1) := by
    decide
  exact hall g.start g.stop

end Sys2Proof.Machine
end

section
/-! The obligations about the Gap Finder (41_gap_finder). -/

namespace Sys2Proof.Machine

/-- Settles O37: the loop keeps the leftmost longest block of zero groups, and such a block is a whole zero run. -/
theorem gapIsTheLeftmostLongestZeroRun : Obligations.GapIsTheLeftmostLongestZeroRun :=
  fun _ => ⟨gapFind_eq_zero, fun _ _ => gapFind_isLeftmostLongest⟩

/-- Settles O38: every result is legal, and each legal gap is the gap of its sample operand. -/
theorem gapFinderHasExactly29Results : Obligations.GapFinderHasExactly29Results :=
  ⟨fun g => (exists_gapFind_eq_iff g).trans (gapLegal_iff g), rfl, gapLegal_iff_mem_table⟩

/-- Settles O39: the gap is a function of the zero vector. -/
theorem onlyZeronessMattersToTheGap : Obligations.OnlyZeronessMattersToTheGap :=
  fun _ _ h => congrArg gapOfZeros (zeroVector_congr h)

end Sys2Proof.Machine
end

section
/-! SUPPORT. The digits of a group (R140, R141). -/

namespace Sys2Proof.Machine

/-- Digit `k` of a group, digit 0 least significant (R140). -/
def nibble (v : Group) (k : Nat) : BitVec 4 := BitVec.extractLsb' (4 * k) 4 v

/-- The value of a digit of a group (R140). -/
theorem nibble_toNat (v : Group) (k : Nat) : (nibble v k).toNat = v.toNat / 2 ^ (4 * k) % 16 := by
  rw [nibble, BitVec.extractLsb'_toNat, Nat.shiftRight_eq_div_pow]

/-- A digit of a group that is not zero, as a number. -/
theorem nibble_ne_zero_iff (v : Group) (k : Nat) : nibble v k ≠ 0 ↔ v.toNat / 2 ^ (4 * k) % 16 ≠ 0 := by
  rw [← nibble_toNat, ne_eq, ← BitVec.toNat_inj]
  rfl

/-- R140, with its digits by name. -/
theorem hex16_eq (v : Group) :
    hex16 v =
      if nibble v 3 ≠ 0 then
        [hexDigit (nibble v 3), hexDigit (nibble v 2), hexDigit (nibble v 1), hexDigit (nibble v 0)]
      else if nibble v 2 ≠ 0 then [hexDigit (nibble v 2), hexDigit (nibble v 1), hexDigit (nibble v 0)]
      else if nibble v 1 ≠ 0 then [hexDigit (nibble v 1), hexDigit (nibble v 0)]
      else [hexDigit (nibble v 0)] := rfl

/-- The four rows of R140, each with the range of the groups it is for. -/
theorem hex16_cases (v : Group) :
    (v.toNat ≤ 0xf ∧ hex16 v = [hexDigit (nibble v 0)]) ∨
    (0x10 ≤ v.toNat ∧ v.toNat ≤ 0xff ∧ hex16 v = [hexDigit (nibble v 1), hexDigit (nibble v 0)]) ∨
    (0x100 ≤ v.toNat ∧ v.toNat ≤ 0xfff ∧
      hex16 v = [hexDigit (nibble v 2), hexDigit (nibble v 1), hexDigit (nibble v 0)]) ∨
    (0x1000 ≤ v.toNat ∧
      hex16 v = [hexDigit (nibble v 3), hexDigit (nibble v 2), hexDigit (nibble v 1), hexDigit (nibble v 0)]) := by
  have hlt := v.isLt
  simp only [hex16_eq, nibble_ne_zero_iff]
  split
  · exact .inr (.inr (.inr ⟨by omega, rfl⟩))
  split
  · exact .inr (.inr (.inl ⟨by omega, by omega, rfl⟩))
  split
  · exact .inr (.inl ⟨by omega, by omega, rfl⟩)
  · exact .inl ⟨by omega, rfl⟩

/-- A digit character stands for its digit (R85). -/
theorem hexValue_hexDigit (n : BitVec 4) : hexValue (hexDigit n) = n.toNat := by
  revert n
  decide

/-- Only the digit of zero is `"0"` (R85). -/
theorem eq_zero_of_hexDigit {n : BitVec 4} (h : hexDigit n = 0x30) : n = 0 :=
  BitVec.eq_of_toNat_eq (by rw [← hexValue_hexDigit, h]; rfl)

/-- How many digits a group has (R141). -/
theorem hex16_length (v : Group) :
    (hex16 v).length =
      if v.toNat ≤ 0xf then 1 else if v.toNat ≤ 0xff then 2 else if v.toNat ≤ 0xfff then 3 else 4 := by
  rcases hex16_cases v with ⟨h, hd⟩ | ⟨h, h', hd⟩ | ⟨h, h', hd⟩ | ⟨h, hd⟩
  · rw [hd, if_pos h]
    rfl
  · rw [hd, if_neg (by omega), if_pos h']
    rfl
  · rw [hd, if_neg (by omega), if_neg (by omega), if_pos h']
    rfl
  · rw [hd, if_neg (by omega), if_neg (by omega), if_neg (by omega)]
    rfl

/-- A group whose digits begin with `"0"` is zero (R141): the leading digit of a longer one is not zero. -/
theorem eq_zero_of_hex16_head {v : Group} (h0 : (hex16 v).head? = some 0x30) : v = 0 := by
  have hlt := v.isLt
  have hdigit {k : Nat} (h : hexDigit (nibble v k) = 0x30) : v.toNat / 2 ^ (4 * k) % 16 = 0 := by
    rw [← nibble_toNat, eq_zero_of_hexDigit h]
    rfl
  apply BitVec.eq_of_toNat_eq
  change v.toNat = 0
  rcases hex16_cases v with ⟨h, hd⟩ | ⟨h, h', hd⟩ | ⟨h, h', hd⟩ | ⟨h, hd⟩ <;>
    rw [hd, List.head?_cons, Option.some_inj] at h0 <;> have hlead := hdigit h0 <;> omega

/-- The number that hexadecimal digits stand for (R141). -/
def hexNumber (ds : List Byte) : Nat := ds.foldl (fun n b => 16 * n + hexValue b) 0

/-- The digits of a group stand for its value (R141). -/
theorem hexNumber_hex16 (v : Group) : hexNumber (hex16 v) = v.toNat := by
  have hlt := v.isLt
  rcases hex16_cases v with ⟨h, hd⟩ | ⟨h, h', hd⟩ | ⟨h, h', hd⟩ | ⟨h, hd⟩ <;>
    simp only [hd, hexNumber, List.foldl_cons, List.foldl_nil, hexValue_hexDigit, nibble_toNat] <;> omega

/-- Different groups have different digits (R141). -/
theorem hex16_injective : Function.Injective hex16 := fun v v' h =>
  BitVec.eq_of_toNat_eq (by rw [← hexNumber_hex16 v, h, hexNumber_hex16])

/-- No digit is a colon (R84, R140). -/
theorem colon_notMem_hex16 (v : Group) : colon ∉ hex16 v := by
  intro hmem
  obtain ⟨n, hn⟩ := hex16_digits v colon hmem
  have hne : ∀ n, colon ≠ hexDigit n := by decide
  exact hne n hn

/-- A group has a first digit (R141). -/
theorem hex16_ne_nil (v : Group) : hex16 v ≠ [] := List.ne_nil_of_length_pos (hex16_length_bounds v).1

/-! ### High and low group -/

/-- Joining the groups of a word gives it back (R72). -/
theorem append_groups (x : Word) : hiOf x ++ loOf x = x := by
  rw [hiOf, loOf, BitVec.extractLsb'_append_extractLsb'_eq_extractLsb' (by rfl)]
  exact BitVec.extractLsb'_eq_self

/-- A word is zero if both its groups are (R72). -/
theorem eq_zero_of_groups {x : Word} (hhi : hiOf x = 0) (hlo : loOf x = 0) : x = 0 := by
  rw [← append_groups x, hhi, hlo]
  rfl

end Sys2Proof.Machine
end

section
/-! SUPPORT. Which tag a word has, by where the gap lies at its groups (R144), and what follows for the word's value
and for what it sends. -/

namespace Sys2Proof.Machine

/-! ### The gap of an operand -/

/-- The bounds of a legal gap (R24, R122). -/
theorem gapLegal_bounds {g : Gap} (h : gapLegal g = true) :
    (g.start.toNat = 0 ∧ g.stop.toNat = 0) ∨ (g.start.toNat + 2 ≤ g.stop.toNat ∧ g.stop.toNat ≤ 8) :=
  ((gapLegal_iff g).mp h).imp_left (by rintro rfl; exact ⟨rfl, rfl⟩)

/-- A gap is present when its end is not 0 (R143). -/
theorem gapPresent_iff (g : Gap) : gapPresent g = true ↔ g.stop.toNat ≠ 0 := by
  rw [gapPresent, bne_iff_ne, ne_eq, ← BitVec.toNat_inj]
  rfl

/-- The pair `(0, 0)`, of the legal ones, says that there is no gap (R122). -/
theorem gapPresent_iff_ne {g : Gap} (h : gapLegal g = true) : gapPresent g = true ↔ g ≠ ⟨0, 0⟩ := by
  rw [gapPresent_iff]
  rcases (gapLegal_iff g).mp h with rfl | ⟨h2, -⟩
  · decide
  · refine iff_of_true (by omega) fun hg => ?_
    rw [hg] at h2
    exact absurd h2 (by decide)

/-- A gap that is present is a zero run (R125). -/
theorem gapFind_isZeroRun {w : Words} (h : (gapFind w).stop.toNat ≠ 0) :
    IsZeroRun w (gapFind w).start.toNat (gapFind w).stop.toNat := by
  obtain ⟨c, hc, hgap⟩ := gapFind_eq_gapOfScan w
  rcases Nat.lt_or_ge c.bl 2 with h2 | h2
  · rw [hgap, gapOfScan_of_lt h2] at h
    exact absurd rfl h
  · obtain ⟨hstart, hstop⟩ := hc.gapOfScan_bounds h2
    rw [hgap, hstart, hstop]
    exact hc.isZeroRun (by omega)

/-! ### The rows of R144 -/

/-- R144: the tag of word `k`, whose groups are `2k` and `2k + 1`, by where the gap lies at them. -/
inductive TagRow (g : Gap) : Nat → Tag → Prop where
  /-- Both groups are printed; no separator comes before group 0. -/
  | hl (h : g.stop.toNat = 0 ∨ 2 ≤ g.start.toNat) : TagRow g 0 .hl
  /-- Both groups are printed. -/
  | chl {k : Nat} (hk : 0 < k) (h : g.stop.toNat ≤ 2 * k ∨ 2 * k + 2 ≤ g.start.toNat) : TagRow g k .chl
  /-- The high group is printed and the gap starts at the low one; no separator comes before group 0. -/
  | hc (hs : g.start.toNat = 1) (he : 3 ≤ g.stop.toNat) : TagRow g 0 .hc
  /-- The high group is printed and the gap starts at the low one. -/
  | chc {k : Nat} (hk : 0 < k) (hs : g.start.toNat = 2 * k + 1) (he : 2 * k + 3 ≤ g.stop.toNat)
      (h8 : g.stop.toNat ≤ 8) : TagRow g k .chc
  /-- The gap starts at the high group and covers the low one: the first colon of `"::"`. -/
  | colFirst {k : Nat} (hk : k < 3) (hs : g.start.toNat = 2 * k) (he : 2 * k + 2 ≤ g.stop.toNat) : TagRow g k .col
  /-- The gap is the last two groups: both colons of `"::"`. -/
  | cc (hs : g.start.toNat = 6) (he : g.stop.toNat = 8) : TagRow g 3 .cc
  /-- The gap started in an earlier word and covers both groups. -/
  | nop {k : Nat} (hk : k < 3) (hs : g.start.toNat < 2 * k) (he : 2 * k + 2 ≤ g.stop.toNat) : TagRow g k .nop
  /-- The gap started in an earlier word and covers the last two groups: the second colon of `"::"`. -/
  | colLast (hs : g.start.toNat < 6) (he : g.stop.toNat = 8) : TagRow g 3 .col
  /-- The gap started in an earlier word and ends after the high group. -/
  | clo {k : Nat} (hs : g.start.toNat < 2 * k) (he : g.stop.toNat = 2 * k + 1) : TagRow g k .clo

/-- The tag of word 0 is that of its row (R144, R146). -/
theorem classifyFirst_row {g : Gap} (h : gapLegal g = true) :
    TagRow g 0 (classifyFirst g.start.toNat g.stop.toNat) := by
  have hb := gapLegal_bounds h
  unfold classifyFirst
  split
  · exact .hl (by omega)
  split
  · exact .colFirst (by decide) (by omega) (by omega)
  · exact .hc (by omega) (by omega)

/-- The tags of the words 1 and 2 are those of their rows (R144, R146). -/
theorem classifyMiddle_row {g : Gap} (h : gapLegal g = true) {k : Nat} (h0 : 0 < k) (h3 : k < 3) :
    TagRow g k (classifyMiddle (2 * k) g.start.toNat g.stop.toNat) := by
  have hb := gapLegal_bounds h
  unfold classifyMiddle
  split
  · exact .chl h0 (by omega)
  split
  · exact .colFirst h3 (by omega) (by omega)
  split
  · exact .chc h0 (by omega) (by omega) (by omega)
  split
  · exact .clo (by omega) (by omega)
  · exact .nop h3 (by omega) (by omega)

/-- The tag of word 3 is that of its row (R144, R146). -/
theorem classifyLast_row {g : Gap} (h : gapLegal g = true) : TagRow g 3 (classifyLast g.start.toNat g.stop.toNat) := by
  have hb := gapLegal_bounds h
  unfold classifyLast
  split
  · exact .chl (by decide) (by omega)
  split
  · exact .cc (by omega) (by omega)
  split
  · exact .colLast (by omega) (by omega)
  · exact .clo (by omega) (by omega)

/-- The classifier gives every word the tag of its row (R144, R146). -/
theorem classify_row {g : Gap} (h : gapLegal g = true) (k : Fin 4) : TagRow g k (classify k g) := by
  unfold classify
  rw [if_pos h]
  match k with
  | 0 => exact classifyFirst_row h
  | 1 => exact classifyMiddle_row h (k := 1) (by decide) (by decide)
  | 2 => exact classifyMiddle_row h (k := 2) (by decide) (by decide)
  | 3 => exact classifyLast_row h

/-! ### The value of a word, by its tag -/

/-- The groups of word `k` (R72). -/
theorem groups_of_word {w : Words} {k : Nat} {x : Word} (hx : [w.w0, w.w1, w.w2, w.w3][k]? = some x) :
    (groupsOf w)[2 * k]? = some (hiOf x) ∧ (groupsOf w)[2 * k + 1]? = some (loOf x) := by
  match k, hx with
  | 0, rfl => exact ⟨rfl, rfl⟩
  | 1, rfl => exact ⟨rfl, rfl⟩
  | 2, rfl => exact ⟨rfl, rfl⟩
  | 3, rfl => exact ⟨rfl, rfl⟩

/-- What R163 to R168 say of the value of a word with a given tag. -/
def TagFits : Tag → Word → Prop
  | .chl, _ => True
  | .hl, _ => True
  | .nop, x => x = 0
  | .col, x => x = 0
  | .clo, x => hiOf x = 0 ∧ loOf x ≠ 0
  | .cc, x => x = 0
  | .chc, x => hiOf x ≠ 0 ∧ loOf x = 0
  | .hc, x => hiOf x ≠ 0 ∧ loOf x = 0

section

variable {w : Words} {k : Nat} {x : Word}

/-- The high group of word `k` is group `2k` (R72). -/
theorem hiOf_eq_zero_iff (hx : [w.w0, w.w1, w.w2, w.w3][k]? = some x) : hiOf x = 0 ↔ GroupIsZero w (2 * k) := by
  rw [GroupIsZero, (groups_of_word hx).1, Option.some_inj]

/-- The low group of word `k` is group `2k + 1` (R72). -/
theorem loOf_eq_zero_iff (hx : [w.w0, w.w1, w.w2, w.w3][k]? = some x) : loOf x = 0 ↔ GroupIsZero w (2 * k + 1) := by
  rw [GroupIsZero, (groups_of_word hx).2, Option.some_inj]

/-- A word whose two groups lie in the gap is zero (R163, R164, R166). -/
theorem eq_zero_of_gap_covers (hx : [w.w0, w.w1, w.w2, w.w3][k]? = some x) (hs : (gapFind w).start.toNat ≤ 2 * k)
    (he : 2 * k + 2 ≤ (gapFind w).stop.toNat) : x = 0 := by
  obtain ⟨-, -, hzero, -⟩ := gapFind_isZeroRun (w := w) (by omega)
  exact eq_zero_of_groups ((hiOf_eq_zero_iff hx).mpr (hzero _ hs (by omega)))
    ((loOf_eq_zero_iff hx).mpr (hzero _ (by omega) (by omega)))

/-- Where the gap starts at the low group, the high one is not zero: the gap is a whole zero run (R167, R168). -/
theorem groups_of_gap_starts_low (hx : [w.w0, w.w1, w.w2, w.w3][k]? = some x)
    (hs : (gapFind w).start.toNat = 2 * k + 1) (he : 2 * k + 3 ≤ (gapFind w).stop.toNat) :
    hiOf x ≠ 0 ∧ loOf x = 0 := by
  obtain ⟨-, -, hzero, hbefore, -⟩ := gapFind_isZeroRun (w := w) (by omega)
  rw [hs] at hzero hbefore
  refine ⟨fun hhi => ?_, (loOf_eq_zero_iff hx).mpr (hzero _ (Nat.le_refl _) (by omega))⟩
  exact hbefore.resolve_left (by omega) ((hiOf_eq_zero_iff hx).mp hhi)

/-- Where the gap ends after the high group, the low one is not zero: the gap is a whole zero run (R165). -/
theorem groups_of_gap_ends_high (hx : [w.w0, w.w1, w.w2, w.w3][k]? = some x)
    (hs : (gapFind w).start.toNat < 2 * k) (he : (gapFind w).stop.toNat = 2 * k + 1) :
    hiOf x = 0 ∧ loOf x ≠ 0 := by
  obtain ⟨-, -, hzero, -, hafter⟩ := gapFind_isZeroRun (w := w) (by omega)
  rw [he] at hzero hafter
  refine ⟨(hiOf_eq_zero_iff hx).mpr (hzero _ (by omega) (by omega)), fun hlo => ?_⟩
  exact hafter.resolve_left (by omega) ((loOf_eq_zero_iff hx).mp hlo)

/-- A word has a value that its tag says (R163 to R168). -/
theorem TagRow.fits {t : Tag} (h : TagRow (gapFind w) k t) (hx : [w.w0, w.w1, w.w2, w.w3][k]? = some x) :
    TagFits t x := by
  cases h with
  | hl => trivial
  | chl => trivial
  | hc hs he => exact groups_of_gap_starts_low hx hs he
  | chc _ hs he => exact groups_of_gap_starts_low hx hs he
  | colFirst _ hs he => exact eq_zero_of_gap_covers hx (by omega) he
  | cc hs he => exact eq_zero_of_gap_covers hx (by omega) (by omega)
  | nop _ hs he => exact eq_zero_of_gap_covers hx (by omega) he
  | colLast hs he => exact eq_zero_of_gap_covers hx (by omega) (by omega)
  | clo hs he => exact groups_of_gap_ends_high hx hs he

end

/-! ### What a group sends (R143) -/

/-- A group outside the gap sends its separator and its digits (R143). -/
theorem groupEmission_outside {g : Gap} (hg : gapLegal g = true) {i : Nat}
    (h : g.stop.toNat ≤ i ∨ i < g.start.toNat) (v : Group) :
    groupEmission g v i = (if 0 < i then [colon] else []) ++ hex16 v := by
  have hb := gapLegal_bounds hg
  simp only [groupEmission, gapPresent_iff]
  rw [if_neg (by omega), if_neg (by omega), List.nil_append]

/-- The group at which the gap starts sends the first colon of `"::"` (R143). -/
theorem groupEmission_start {g : Gap} {i : Nat} (hs : g.start.toNat = i) (he : i < g.stop.toNat) (v : Group) :
    groupEmission g v i = [colon] := by
  simp only [groupEmission, gapPresent_iff]
  rw [if_pos (by omega), if_pos (by omega), List.append_nil]

/-- A later group in the gap sends nothing (R143). -/
theorem groupEmission_inside {g : Gap} {i : Nat} (hs : g.start.toNat < i) (he : i < g.stop.toNat) (v : Group) :
    groupEmission g v i = [] := by
  simp only [groupEmission, gapPresent_iff]
  rw [if_neg (by omega), if_pos (by omega), List.append_nil]

/-- What R143 sends after group 7. -/
def endColon (g : Gap) : List Byte := if gapPresent g ∧ g.stop.toNat = 8 then [colon] else []

theorem endColon_of_ne {g : Gap} (h : g.stop.toNat ≠ 8) : endColon g = [] := if_neg fun h' => h h'.2

theorem endColon_of_word_ne {g : Gap} {k : Nat} (h : k = 3 → g.stop.toNat ≠ 8) :
    (if k = 3 then endColon g else []) = [] := ite_eq_right_iff.mpr fun hk => endColon_of_ne (h hk)

theorem endColon_of_eq {g : Gap} (h : g.stop.toNat = 8) : endColon g = [colon] :=
  if_pos ⟨(gapPresent_iff g).mpr (by omega), h⟩

/-- What word `k` of value `x` sends by R143: what its two groups send, and word 3 the final colon too (R144). -/
def wordEmission (g : Gap) (k : Nat) (x : Word) : List Byte :=
  groupEmission g (hiOf x) (2 * k) ++ groupEmission g (loOf x) (2 * k + 1) ++ if k = 3 then endColon g else []

/-- A word sends under the tag of its row what its groups send (R144). -/
theorem TagRow.emits {g : Gap} (hg : gapLegal g = true) {k : Nat} {t : Tag} (h : TagRow g k t) (x : Word) :
    emitTag t x = wordEmission g k x := by
  have hb := gapLegal_bounds hg
  unfold wordEmission
  cases h with
  | hl h =>
    rw [groupEmission_outside hg (by omega), groupEmission_outside hg (by omega)]
    simp
  | chl hk h =>
    rw [groupEmission_outside hg (by omega), groupEmission_outside hg (by omega), endColon_of_word_ne (by omega)]
    simp [hk]
  | hc hs he =>
    rw [groupEmission_outside hg (by omega), groupEmission_start hs (by omega)]
    simp
  | chc hk hs he h8 =>
    rw [groupEmission_outside hg (by omega), groupEmission_start hs (by omega), endColon_of_word_ne (by omega)]
    simp [hk]
  | colFirst hk hs he =>
    rw [groupEmission_start hs (by omega), groupEmission_inside (by omega) (by omega), endColon_of_word_ne (by omega)]
    simp
  | cc hs he =>
    rw [groupEmission_start hs (by omega), groupEmission_inside (by omega) (by omega), endColon_of_eq he]
    simp
  | nop hk hs he =>
    rw [groupEmission_inside hs (by omega), groupEmission_inside (by omega) (by omega), endColon_of_word_ne (by omega)]
    simp
  | colLast hs he =>
    rw [groupEmission_inside hs (by omega), groupEmission_inside (by omega) (by omega), endColon_of_eq he]
    simp
  | clo hs he =>
    rw [groupEmission_inside hs (by omega), groupEmission_outside hg (by omega), endColon_of_word_ne (by omega)]
    simp

/-- The generic text is what the words send by R143, one after the other (R144, R169). -/
theorem genText_eq_wordEmission (w : Words) :
    genText w =
      wordEmission (gapFind w) 0 w.w0 ++ wordEmission (gapFind w) 1 w.w1 ++ wordEmission (gapFind w) 2 w.w2 ++
        wordEmission (gapFind w) 3 w.w3 := by
  have hg := gapFind_legal w
  have hword (k : Fin 4) (x : Word) : emitTag (classify k (gapFind w)) x = wordEmission (gapFind w) k x :=
    (classify_row hg k).emits hg x
  simp only [genText, emitWords, tagsOf, hword]
  rfl

/-- Word by word and group by group come to the same text (R144). -/
theorem genText_eq_groupwiseText (w : Words) : genText w = groupwiseText w := by
  rw [genText_eq_wordEmission]
  simp [wordEmission, groupwiseText, groupsOf, endColon]

end Sys2Proof.Machine
end

section
/-! SUPPORT. The text of the group-by-group emission (R143) taken apart at the gap: it is the grammar's (R88). -/

namespace Sys2Proof.Machine

/-- What the groups `gs` send, the first of which is group `i` (R143). -/
def emitGroups (g : Gap) (i : Nat) (gs : List Group) : List Byte :=
  (gs.zipIdx i).flatMap fun p => groupEmission g p.1 p.2

@[simp] theorem emitGroups_nil (g : Gap) (i : Nat) : emitGroups g i [] = [] := rfl

@[simp] theorem emitGroups_cons (g : Gap) (i : Nat) (v : Group) (gs : List Group) :
    emitGroups g i (v :: gs) = groupEmission g v i ++ emitGroups g (i + 1) gs := rfl

theorem emitGroups_append (g : Gap) (i : Nat) (gs hs : List Group) :
    emitGroups g i (gs ++ hs) = emitGroups g i gs ++ emitGroups g (i + gs.length) hs := by
  rw [emitGroups, List.zipIdx_append, List.flatMap_append, emitGroups, emitGroups]

/-- Groups in hexadecimal, each after a colon. -/
def separated (gs : List Group) : List Byte := gs.flatMap fun v => [colon] ++ hex16 v

@[simp] theorem separated_nil : separated [] = [] := rfl

@[simp] theorem separated_cons (v : Group) (gs : List Group) :
    separated (v :: gs) = [colon] ++ hex16 v ++ separated gs := rfl

@[simp] theorem joinGroups_nil : joinGroups [] = [] := rfl

/-- Joined groups: the first, then each other one after a colon (R88). -/
@[simp] theorem joinGroups_cons (v : Group) (gs : List Group) : joinGroups (v :: gs) = hex16 v ++ separated gs := by
  induction gs generalizing v with
  | nil => simp [joinGroups]
  | cons u gs ih =>
    rw [separated_cons, List.append_assoc, ← ih u]
    simp [joinGroups, List.intercalate_cons_cons]

/-- A colon in front of joined groups separates the first of them from what was before. -/
theorem separated_eq {gs : List Group} (h : gs ≠ []) : separated gs = [colon] ++ joinGroups gs := by
  obtain ⟨v, gs, rfl⟩ := List.exists_cons_of_ne_nil h
  rw [separated_cons, joinGroups_cons, List.append_assoc]

/-- Groups after the gap, and groups before it but for group 0, are sent each after a colon (R143). -/
theorem emitGroups_outside {g : Gap} (hg : gapLegal g = true) {i : Nat} (hi : 0 < i) {gs : List Group}
    (h : g.stop.toNat ≤ i ∨ i + gs.length ≤ g.start.toNat) : emitGroups g i gs = separated gs := by
  induction gs generalizing i with
  | nil => rfl
  | cons v gs ih =>
    rw [List.length_cons] at h
    rw [emitGroups_cons, groupEmission_outside hg (by omega), if_pos hi, ih (by omega) (by omega), separated_cons]

/-- The groups from group 0 on, before the gap or with no gap, are sent joined (R143). -/
theorem emitGroups_first {g : Gap} (hg : gapLegal g = true) {gs : List Group}
    (h : g.stop.toNat = 0 ∨ gs.length ≤ g.start.toNat) : emitGroups g 0 gs = joinGroups gs := by
  cases gs with
  | nil => rfl
  | cons v gs =>
    rw [List.length_cons] at h
    rw [emitGroups_cons, groupEmission_outside hg (by omega), emitGroups_outside hg (by omega) (by omega),
      joinGroups_cons]
    rfl

/-- Groups in the gap after its first send nothing (R143). -/
theorem emitGroups_inside {g : Gap} {i : Nat} {gs : List Group} (hs : g.start.toNat < i)
    (he : i + gs.length ≤ g.stop.toNat) : emitGroups g i gs = [] := by
  induction gs generalizing i with
  | nil => rfl
  | cons v gs ih =>
    rw [List.length_cons] at he
    rw [emitGroups_cons, groupEmission_inside hs (by omega), ih (by omega) (by omega)]
    rfl

/-- The groups of the gap send one colon (R143). -/
theorem emitGroups_gap {g : Gap} {gs : List Group} (hne : gs ≠ []) (h : g.start.toNat + gs.length = g.stop.toNat) :
    emitGroups g g.start.toNat gs = [colon] := by
  obtain ⟨v, gs, rfl⟩ := List.exists_cons_of_ne_nil hne
  rw [List.length_cons] at h
  rw [emitGroups_cons, groupEmission_start rfl (by omega), emitGroups_inside (by omega) (by omega), List.append_nil]

/-- What comes after the gap begins with the second colon of `"::"`: the separator of the first group there, or the
final colon (R143). -/
theorem emitGroups_rest {g : Gap} (hg : gapLegal g = true) (hpos : g.stop.toNat ≠ 0) {gs : List Group}
    (h : g.stop.toNat + gs.length = 8) :
    emitGroups g g.stop.toNat gs ++ endColon g = [colon] ++ joinGroups gs := by
  rw [emitGroups_outside hg (by omega) (.inl (Nat.le_refl _))]
  cases gs with
  | nil => rw [endColon_of_eq h]; rfl
  | cons v gs =>
    rw [List.length_cons] at h
    rw [endColon_of_ne (by omega), List.append_nil, separated_eq (List.cons_ne_nil v gs)]

/-- Eight groups sent one by one, when a gap is present: what stands before it, `"::"`, and what stands after (R88,
R143). -/
theorem emitGroups_of_present {g : Gap} (hg : gapLegal g = true) (hpos : g.stop.toNat ≠ 0) {gs : List Group}
    (h : gs.length = 8) :
    emitGroups g 0 gs ++ endColon g =
      joinGroups (gs.take g.start.toNat) ++ [colon, colon] ++ joinGroups (gs.drop g.stop.toNat) := by
  have hb := gapLegal_bounds hg
  have hpre : (gs.take g.start.toNat).length = g.start.toNat := List.length_take_of_le (by omega)
  have hmid : ((gs.take g.stop.toNat).drop g.start.toNat).length = g.stop.toNat - g.start.toNat := by
    rw [List.length_drop, List.length_take_of_le (by omega)]
  have hstop : (gs.take g.stop.toNat).length = g.stop.toNat := List.length_take_of_le (by omega)
  have hsplit : gs.take g.stop.toNat = gs.take g.start.toNat ++ (gs.take g.stop.toNat).drop g.start.toNat := by
    have hcut := (List.take_append_drop g.start.toNat (gs.take g.stop.toNat)).symm
    rwa [List.take_take, Nat.min_eq_left (by omega)] at hcut
  calc emitGroups g 0 gs ++ endColon g
      = emitGroups g 0 (gs.take g.stop.toNat) ++ (emitGroups g g.stop.toNat (gs.drop g.stop.toNat) ++ endColon g) := by
        conv_lhs => rw [← List.take_append_drop g.stop.toNat gs, emitGroups_append, hstop, Nat.zero_add]
        rw [List.append_assoc]
    _ = joinGroups (gs.take g.start.toNat) ++ [colon] ++ ([colon] ++ joinGroups (gs.drop g.stop.toNat)) := by
        rw [emitGroups_rest hg hpos (by rw [List.length_drop]; omega), hsplit, emitGroups_append, hpre, Nat.zero_add,
          emitGroups_first hg (.inr (Nat.le_of_eq hpre)),
          emitGroups_gap (List.ne_nil_of_length_pos (by omega)) (by omega)]
    _ = joinGroups (gs.take g.start.toNat) ++ [colon, colon] ++ joinGroups (gs.drop g.stop.toNat) := by
        simp only [List.append_assoc, List.cons_append, List.nil_append]

/-- The group-by-group emission is the grammar's text (R88, R143). -/
theorem groupwiseText_eq_grammarText (w : Words) : groupwiseText w = grammarText w := by
  have hg := gapFind_legal w
  have hemit : groupwiseText w = emitGroups (gapFind w) 0 (groupsOf w) ++ endColon (gapFind w) := rfl
  rw [hemit, grammarText]
  split
  case isTrue hp => exact emitGroups_of_present hg ((gapPresent_iff _).mp hp) rfl
  case isFalse hp =>
    rw [gapPresent_iff, not_not] at hp
    rw [emitGroups_first hg (.inl hp), endColon_of_ne (by omega), List.append_nil]

end Sys2Proof.Machine
end

section
/-! SUPPORT. Where the colons of the grammar's text stand (R88, R153). -/

namespace Sys2Proof.Machine

/-! ### Adjacent colons -/

@[simp] theorem doubleColons_cons_cons (a b : Byte) (l : List Byte) :
    doubleColons (a :: b :: l) = (if a = colon ∧ b = colon then 1 else 0) + doubleColons (b :: l) := rfl

/-- Joining two texts makes no new pair of colons unless a colon ends the one and begins the other. -/
theorem doubleColons_append {l m : List Byte} (h : l.getLast? ≠ some colon ∨ m.head? ≠ some colon) :
    doubleColons (l ++ m) = doubleColons l + doubleColons m := by
  induction l with
  | nil => exact (Nat.zero_add _).symm
  | cons a l ih =>
    cases l with
    | nil =>
      cases m with
      | nil => rfl
      | cons b m =>
        have hab : ¬ (a = colon ∧ b = colon) := not_and_or.mpr (by simpa using h)
        rw [List.singleton_append, doubleColons_cons_cons, if_neg hab]
        rfl
    | cons b l =>
      rw [List.getLast?_cons_cons] at h
      rw [List.cons_append, List.cons_append, doubleColons_cons_cons, doubleColons_cons_cons, ← List.cons_append,
        ih h, Nat.add_assoc]

/-- A text without a colon has no two in a row. -/
theorem doubleColons_of_notMem {l : List Byte} (h : colon ∉ l) : doubleColons l = 0 := by
  induction l with
  | nil => rfl
  | cons a l ih =>
    rw [List.mem_cons, not_or] at h
    obtain ⟨ha, hl⟩ := h
    cases l with
    | nil => rfl
    | cons b l => rw [doubleColons_cons_cons, if_neg fun hab => ha hab.1.symm, ih hl]

/-! ### Texts whose colons only separate -/

/-- A text that neither begins nor ends with a colon and has no two in a row. -/
structure ColonsSeparate (l : List Byte) : Prop where
  head : l.head? ≠ some colon
  last : l.getLast? ≠ some colon
  single : doubleColons l = 0

theorem colonsSeparate_nil : ColonsSeparate [] := ⟨nofun, nofun, rfl⟩

/-- The digits of a group have no colon. -/
theorem colonsSeparate_hex16 (v : Group) : ColonsSeparate (hex16 v) where
  head h := colon_notMem_hex16 v (List.mem_of_mem_head? h)
  last h := colon_notMem_hex16 v (List.mem_of_getLast? h)
  single := doubleColons_of_notMem (colon_notMem_hex16 v)

/-- One colon between two such texts that are not empty. -/
theorem ColonsSeparate.append {l m : List Byte} (hl : ColonsSeparate l) (hm : ColonsSeparate m) (hl0 : l ≠ [])
    (hm0 : m ≠ []) : ColonsSeparate (l ++ ([colon] ++ m)) where
  head := by
    rw [List.head?_append_of_ne_nil l hl0]
    exact hl.head
  last := by
    rw [List.getLast?_append_of_ne_nil _ (by simp), List.getLast?_append_of_ne_nil _ hm0]
    exact hm.last
  single := by
    rw [doubleColons_append (.inl hl.last), doubleColons_append (.inr hm.head), hl.single, hm.single]
    rfl

/-- Two colons between two such texts: they are the one pair (R153). -/
theorem ColonsSeparate.doubleColons_pair {l m : List Byte} (hl : ColonsSeparate l) (hm : ColonsSeparate m) :
    doubleColons (l ++ [colon, colon] ++ m) = 1 := by
  rw [doubleColons_append (.inr hm.head), doubleColons_append (.inl hl.last), hl.single, hm.single]
  rfl

/-- A text that begins with the colons of the pair begins with both (R153). -/
theorem ColonsSeparate.head_pair {l : List Byte} (hl : ColonsSeparate l) (m : List Byte)
    (h : (l ++ [colon, colon] ++ m).head? = some colon) : (l ++ [colon, colon] ++ m)[1]? = some colon := by
  cases l with
  | nil => rfl
  | cons a l => exact absurd h hl.head

/-- A text that ends with the colons of the pair ends with both (R153). -/
theorem ColonsSeparate.last_pair (l : List Byte) {m : List Byte} (hm : ColonsSeparate m)
    (h : (l ++ [colon, colon] ++ m).getLast? = some colon) :
    (l ++ [colon, colon] ++ m).dropLast.getLast? = some colon := by
  rcases List.eq_nil_or_concat m with rfl | ⟨m', b, rfl⟩
  · have hpair : l ++ [colon, colon] ++ [] = l ++ [colon] ++ [colon] := by simp
    rw [hpair, List.dropLast_concat, List.getLast?_concat]
  · rw [List.getLast?_append_of_ne_nil _ (by simp)] at h
    exact absurd h hm.last

/-! ### The grammar's text -/

/-- Joined groups are not empty if there is a group. -/
theorem joinGroups_ne_nil (v : Group) (gs : List Group) : joinGroups (v :: gs) ≠ [] := by
  rw [joinGroups_cons]
  exact List.append_ne_nil_of_left_ne_nil (hex16_ne_nil v) _

/-- The colons between joined groups separate them (R88). -/
theorem colonsSeparate_joinGroups (gs : List Group) : ColonsSeparate (joinGroups gs) := by
  induction gs with
  | nil => exact colonsSeparate_nil
  | cons v gs ih =>
    rw [joinGroups_cons]
    cases gs with
    | nil =>
      rw [separated_nil, List.append_nil]
      exact colonsSeparate_hex16 v
    | cons u gs =>
      rw [separated_eq (List.cons_ne_nil u gs)]
      exact (colonsSeparate_hex16 v).append ih (hex16_ne_nil v) (joinGroups_ne_nil u gs)

end Sys2Proof.Machine
end

section
/-! The obligations about the Field Classifier (42_field_classifier). -/

namespace Sys2Proof.Machine

/-- Settles O36: the digits of each row of R140 read back as the group, so they tell groups apart. -/
theorem hexDigitsOfAGroup : Obligations.HexDigitsOfAGroup :=
  ⟨fun v => ⟨hex16_length v, eq_zero_of_hex16_head, hexNumber_hex16 v⟩, hex16_injective⟩

/-- Settles O40, by evaluating the classifier on each row. -/
theorem classificationTableOfAllGaps : Obligations.ClassificationTableOfAllGaps := by
  unfold Obligations.ClassificationTableOfAllGaps
  decide

/-- The tags of an operand stand in R148's table beside its gap. -/
theorem gapFind_row_mem_table (w : Words) : (gapFind w, tagsOf (gapFind w)) ∈ classificationTable := by
  obtain ⟨p, hp, hgap⟩ := List.mem_map.mp ((gapLegal_iff_mem_table _).mp (gapFind_legal w))
  rwa [← hgap, classificationTableOfAllGaps p hp]

/-- Settles O41: it holds of each row of R148's table, and the operand of a row has the row's tags. -/
theorem tagsThatCanOccurAtEachWord : Obligations.TagsThatCanOccurAtEachWord := by
  refine ⟨fun w => ?_, fun t => ?_⟩
  · have hrows : ∀ p ∈ classificationTable,
        p.2.t0 ∈ [Tag.hl, .hc, .col] ∧ p.2.t1 ∈ [Tag.chl, .chc, .col, .nop, .clo] ∧
        p.2.t2 ∈ [Tag.chl, .chc, .col, .nop, .clo] ∧ p.2.t3 ∈ [Tag.chl, .cc, .col, .clo] ∧
        (p.2.t3 = .cc → p.1 = ⟨6, 8⟩) := by decide
    exact hrows _ (gapFind_row_mem_table w)
  · have hgap : ∃ g k, gapLegal g = true ∧ classify k g = t := by
      cases t with
      | chl => exact ⟨⟨0, 0⟩, 1, by decide⟩
      | hl => exact ⟨⟨0, 0⟩, 0, by decide⟩
      | nop => exact ⟨⟨0, 8⟩, 1, by decide⟩
      | col => exact ⟨⟨0, 8⟩, 0, by decide⟩
      | clo => exact ⟨⟨0, 3⟩, 1, by decide⟩
      | cc => exact ⟨⟨6, 8⟩, 3, by decide⟩
      | chc => exact ⟨⟨3, 5⟩, 1, by decide⟩
      | hc => exact ⟨⟨1, 3⟩, 0, by decide⟩
    obtain ⟨g, k, hg, ht⟩ := hgap
    exact ⟨sampleWords g, k, by rw [gapFind_sampleWords hg, ht]⟩

/-- Settles O42: the tag says where the gap lies at the word's groups, and the gap is a whole zero run. -/
theorem tagsFitTheWordsTheyAreChosenFor : Obligations.TagsFitTheWordsTheyAreChosenFor := by
  intro w k x hx
  have hfits : TagFits (classify k (gapFind w)) x := (classify_row (gapFind_legal w) k).fits hx
  refine ⟨fun ht => ?_, fun ht => ?_, fun ht => ?_⟩
  · simp only [List.mem_cons, List.not_mem_nil, or_false] at ht
    rcases ht with ht | ht | ht <;> rwa [ht] at hfits
  · rwa [ht] at hfits
  · simp only [List.mem_cons, List.not_mem_nil, or_false] at ht
    rcases ht with ht | ht <;> rwa [ht] at hfits

/-- Settles O43: a word sends what its two groups send, and the groups before, in and after the gap come to the three
parts of the grammar's text. -/
theorem genericTextMeetsTheGrammar : Obligations.GenericTextMeetsTheGrammar := fun w =>
  ⟨rfl, (genText_eq_groupwiseText w).trans (groupwiseText_eq_grammarText w), genText_eq_groupwiseText w⟩

/-- Settles O44: in the grammar's text all colons separate groups but for the pair at the gap. -/
theorem oneDoubleColonIffAGap : Obligations.OneDoubleColonIffAGap := by
  intro w
  have htext : genText w = grammarText w := (genericTextMeetsTheGrammar w).2.1
  have hgap := gapPresent_iff_ne (gapFind_legal w)
  rw [htext, grammarText]
  split
  case isTrue hp =>
    have hbefore := colonsSeparate_joinGroups ((groupsOf w).take (gapFind w).start.toNat)
    have hafter := colonsSeparate_joinGroups ((groupsOf w).drop (gapFind w).stop.toNat)
    rw [if_neg (hgap.mp hp)]
    exact ⟨hbefore.doubleColons_pair hafter, hbefore.head_pair _, ColonsSeparate.last_pair _ hafter⟩
  case isFalse hp =>
    have hall := colonsSeparate_joinGroups (groupsOf w)
    rw [if_pos (not_not.mp (mt hgap.mpr hp))]
    exact ⟨hall.single, fun h => absurd h hall.head, fun h => absurd h hall.last⟩

end Sys2Proof.Machine
end

section
/-! SUPPORT. The family predicates and the family of a request (R181 to R184), and the emission mux's string of each
family (R191). -/

namespace Sys2Proof.Machine

/-! ### The family of a request -/

/-- The high group of a word is zero for the values up to `0xffff` (R72). -/
theorem hiOf_ne_zero_iff (x : Word) : hiOf x ≠ 0 ↔ 0xffff < x.toNat := by
  have hlt := x.isLt
  rw [ne_eq, ← BitVec.toNat_inj, hiOf, BitVec.extractLsb'_toNat, Nat.shiftRight_eq_div_pow]
  change ¬ x.toNat / 2 ^ 16 % 2 ^ 16 = 0 ↔ _
  omega

/-- R182. -/
theorem isMapped_iff (w : Words) : isMapped w = true ↔ w.w0 = 0 ∧ w.w1 = 0 ∧ w.w2 = 0x0000ffff := by
  simp [isMapped, and_assoc]

/-- R183. -/
theorem isCompat_iff (w : Words) :
    isCompat w = true ↔ w.w0 = 0 ∧ w.w1 = 0 ∧ w.w2 = 0 ∧ 0xffff < w.w3.toNat := by
  simp [isCompat, and_assoc]

/-- R181. -/
theorem isGeneric_iff (w : Words) : isGeneric w = true ↔ isMapped w = false ∧ isCompat w = false := by
  simp [isGeneric]

/-- A compatible operand has the word 2 zero, a mapped one has not (R181). -/
theorem isMapped_eq_false_of_isCompat {w : Words} (h : isCompat w = true) : isMapped w = false := by
  rw [Bool.eq_false_iff]
  intro hm
  obtain ⟨-, -, h2, -⟩ := (isCompat_iff w).mp h
  obtain ⟨-, -, h2'⟩ := (isMapped_iff w).mp hm
  rw [h2] at h2'
  exact absurd h2' (by decide)

/-- R184, for a mapped operand. -/
theorem familyOf_of_isMapped {w : Words} (h : isMapped w = true) : familyOf .enc6 w = .mapped := if_pos h

/-- R184, for a compatible operand. -/
theorem familyOf_of_isCompat {w : Words} (h : isCompat w = true) : familyOf .enc6 w = .compat := by
  simp [familyOf, isMapped_eq_false_of_isCompat h, h]

/-- R184, for a generic operand. -/
theorem familyOf_of_isGeneric {w : Words} (h : isGeneric w = true) : familyOf .enc6 w = .generic := by
  obtain ⟨hm, hc⟩ := (isGeneric_iff w).mp h
  simp [familyOf, hm, hc]

/-- The family of an ENC6 says which of the three forms its operand has (R182 to R184). -/
theorem familyOf_enc6_cases (w : Words) :
    (familyOf .enc6 w = .mapped ∧ w = ⟨0, 0, 0x0000ffff, w.w3⟩) ∨
      (familyOf .enc6 w = .compat ∧ w = ⟨0, 0, 0, w.w3⟩) ∨ familyOf .enc6 w = .generic := by
  cases hm : isMapped w with
  | true => exact .inl ⟨familyOf_of_isMapped hm, eq_of_isMapped hm⟩
  | false =>
    cases hc : isCompat w with
    | true => exact .inr (.inl ⟨familyOf_of_isCompat hc, (eq_of_isCompat hc).1⟩)
    | false => exact .inr (.inr (familyOf_of_isGeneric ((isGeneric_iff w).mpr ⟨hm, hc⟩)))

/-- The last word of an operand that is not generic stands behind constant words (R182, R183). -/
theorem eq_of_not_generic {w : Words} (h : familyOf .enc6 w ≠ .generic) :
    w = ⟨0, 0, if familyOf .enc6 w = .mapped then 0x0000ffff else 0, w.w3⟩ := by
  rcases familyOf_enc6_cases w with ⟨hf, hw⟩ | ⟨hf, hw⟩ | hf
  · rw [hf]
    exact hw
  · rw [hf]
    exact hw
  · exact absurd hf h

/-- In a family other than GENERIC the last word determines the operand (R182, R183). -/
theorem eq_of_last_word {w w' : Words} (hfam : familyOf .enc6 w' = familyOf .enc6 w)
    (h : familyOf .enc6 w ≠ .generic) (h3 : w.w3 = w'.w3) : w = w' :=
  calc w = ⟨0, 0, if familyOf .enc6 w = .mapped then 0x0000ffff else 0, w.w3⟩ := eq_of_not_generic h
    _ = ⟨0, 0, if familyOf .enc6 w' = .mapped then 0x0000ffff else 0, w'.w3⟩ := by rw [hfam, h3]
    _ = w' := (eq_of_not_generic (hfam ▸ h)).symm

/-! ### The string of each family -/

/-- R191, row V4. -/
@[simp] theorem muxText_v4 (t : Tags) (w : Words) : muxText .v4 t w = v4Text w.w3 := List.append_nil _

/-- R191, row GENERIC. -/
@[simp] theorem muxText_generic (t : Tags) (w : Words) : muxText .generic t w = emitWords t w := by
  simp [muxText, muxSegments, emitWords]

/-- R191, row MAPPED. -/
@[simp] theorem muxText_mapped (t : Tags) (w : Words) : muxText .mapped t w = mappedText w.w3 := by
  simp [muxText, muxSegments, mappedText]

/-- R191, row COMPAT. -/
@[simp] theorem muxText_compat (t : Tags) (w : Words) : muxText .compat t w = compatText w.w3 := by
  simp [muxText, muxSegments, compatText]

/-- The string of a request is what the mux selects by its family, under the tags of its gap (R190, R191). -/
theorem textOf_eq_muxText (op : Op) (w : Words) :
    textOf op w = muxText (familyOf op w) (tagsOf (gapFind w)) w := by
  rw [textOf]
  cases familyOf op w with
  | v4 => rw [muxText_v4]
  | generic => rw [muxText_generic, genText]
  | mapped => rw [muxText_mapped]
  | compat => rw [muxText_compat]

section
variable {op : Op} {w : Words}

/-- R190, family V4. -/
theorem textOf_of_v4 (h : familyOf op w = .v4) : textOf op w = v4Text w.w3 := by
  rw [textOf_eq_muxText, h, muxText_v4]

/-- R190, family GENERIC. -/
theorem textOf_of_generic (h : familyOf op w = .generic) : textOf op w = genText w := by
  rw [textOf_eq_muxText, h, muxText_generic, genText]

/-- R190, family MAPPED. -/
theorem textOf_of_mapped (h : familyOf op w = .mapped) : textOf op w = mappedText w.w3 := by
  rw [textOf_eq_muxText, h, muxText_mapped]

/-- R190, family COMPAT. -/
theorem textOf_of_compat (h : familyOf op w = .compat) : textOf op w = compatText w.w3 := by
  rw [textOf_eq_muxText, h, muxText_compat]

end

/-- The string of an ENC6, by the predicates (R186). -/
theorem textOf_enc6 (w : Words) :
    textOf .enc6 w =
      if isMapped w then mappedText w.w3 else if isCompat w then compatText w.w3 else genText w := by
  split_ifs with hm hc
  · exact textOf_of_mapped (familyOf_of_isMapped hm)
  · exact textOf_of_compat (familyOf_of_isCompat hc)
  · exact textOf_of_isGeneric ((isGeneric_iff w).mpr ⟨by simpa using hm, by simpa using hc⟩)

/-- The mapped token has seven bytes (R188). -/
theorem mappedText_length (x : Word) : (mappedText x).length = 7 + (v4Text x).length :=
  List.length_append

/-- The compatible token has two bytes (R189). -/
theorem compatText_length (x : Word) : (compatText x).length = 2 + (v4Text x).length :=
  List.length_append

end Sys2Proof.Machine
end

section
/-! SUPPORT. A generic text determines its operand: the pair of colons stands at one place only, what is before and after
it separates into groups, and the groups of the gap are zero (R153, R199). -/

namespace Sys2Proof.Machine

/-! ### The place of the pair -/

/-- Two colons in a row are counted, whatever stands around them. -/
theorem doubleColons_pair_pos (l m : List Byte) : 0 < doubleColons (l ++ colon :: colon :: m) := by
  induction l with
  | nil => simp
  | cons a l ih =>
    cases l with
    | nil => simp
    | cons b l => rw [List.cons_append, List.cons_append, doubleColons_cons_cons]; exact Nat.lt_add_left _ ih

/-- A text before the pair does not reach into the pair of another reading of the text. -/
theorem ColonsSeparate.overhang_eq_nil {l k m m' : List Byte} (h : ColonsSeparate (l ++ k))
    (hk : colon :: colon :: m = k ++ colon :: colon :: m') : k = [] := by
  match k, hk with
  | [], _ => rfl
  | [a], hk =>
    obtain ⟨rfl, -⟩ := List.cons.inj hk
    exact absurd List.getLast?_concat h.last
  | a :: b :: k, hk =>
    obtain ⟨rfl, htail⟩ := List.cons.inj hk
    obtain ⟨rfl, -⟩ := List.cons.inj htail
    exact absurd h.single (doubleColons_pair_pos l k).ne'

/-- A text has one reading as a pair of colons between texts whose colons only separate (R153). -/
theorem ColonsSeparate.pair_unique {l l' m m' : List Byte} (hl : ColonsSeparate l) (hl' : ColonsSeparate l')
    (h : l ++ [colon, colon] ++ m = l' ++ [colon, colon] ++ m') : l = l' ∧ m = m' := by
  rw [List.append_assoc, List.append_assoc] at h
  have hlen : l = l' := by
    rcases List.append_eq_append_iff.mp h with ⟨k, rfl, hk⟩ | ⟨k, rfl, hk⟩
    · rw [hl'.overhang_eq_nil hk, List.append_nil]
    · rw [hl.overhang_eq_nil hk, List.append_nil]
  subst hlen
  exact ⟨rfl, List.append_cancel_left (List.append_cancel_left h)⟩

/-! ### The groups of a text -/

/-- Splitting joined groups at the colons gives their digits, since no digit is a colon (R88). -/
theorem splitOn_colon_joinGroups {gs : List Group} (h : gs ≠ []) : (joinGroups gs).splitOn colon = gs.map hex16 :=
  List.splitOn_intercalate colon (List.forall_mem_map.mpr fun v _ => colon_notMem_hex16 v) (by simpa using h)

/-- Different groups join to different texts (R88). -/
theorem joinGroups_injective : Function.Injective joinGroups := by
  intro gs gs' h
  cases gs with
  | nil =>
    cases gs' with
    | nil => rfl
    | cons v' gs' => exact absurd h.symm (joinGroups_ne_nil v' gs')
  | cons v gs =>
    cases gs' with
    | nil => exact absurd h (joinGroups_ne_nil v gs)
    | cons v' gs' =>
      have hsplit : (v :: gs).map hex16 = (v' :: gs').map hex16 := by
        rw [← splitOn_colon_joinGroups (List.cons_ne_nil v gs), h, splitOn_colon_joinGroups (List.cons_ne_nil v' gs')]
      exact List.map_injective_iff.mpr hex16_injective hsplit

/-- Different operands have different groups (R72). -/
theorem groupsOf_injective : Function.Injective groupsOf := by
  intro w w' h
  simp only [groupsOf, List.cons.injEq] at h
  obtain ⟨h0, h1, h2, h3, h4, h5, h6, h7, -⟩ := h
  have hword {x x' : Word} (hhi : hiOf x = hiOf x') (hlo : loOf x = loOf x') : x = x' := by
    rw [← append_groups x, hhi, hlo, append_groups]
  cases w
  cases w'
  exact (Words.mk.injEq ..).mpr ⟨hword h0 h1, hword h2 h3, hword h4 h5, hword h6 h7⟩

/-- Operands with the same groups before and after a gap that is present are the same: the gap's groups are zero
(R125). -/
theorem groupsOf_eq_of_outside_gap {w w' : Words} (hp : gapPresent (gapFind w) = true)
    (hp' : gapPresent (gapFind w') = true)
    (hbefore : (groupsOf w).take (gapFind w).start.toNat = (groupsOf w').take (gapFind w').start.toNat)
    (hafter : (groupsOf w).drop (gapFind w).stop.toNat = (groupsOf w').drop (gapFind w').stop.toNat) :
    groupsOf w = groupsOf w' := by
  obtain ⟨hlt, h8, hzero, -⟩ := gapFind_isZeroRun ((gapPresent_iff _).mp hp)
  obtain ⟨hlt', h8', hzero', -⟩ := gapFind_isZeroRun ((gapPresent_iff _).mp hp')
  have hlen (w : Words) : (groupsOf w).length = 8 := rfl
  have hs : (gapFind w').start.toNat = (gapFind w).start.toNat := by
    have := congrArg List.length hbefore
    rw [List.length_take, List.length_take, hlen, hlen] at this
    omega
  have he : (gapFind w').stop.toNat = (gapFind w).stop.toNat := by
    have := congrArg List.length hafter
    rw [List.length_drop, List.length_drop, hlen, hlen] at this
    omega
  rw [hs] at hbefore hzero'
  rw [he] at hafter hzero'
  refine List.ext_getElem? fun i => ?_
  rcases Nat.lt_or_ge i (gapFind w).start.toNat with hi | hi
  · rw [← List.getElem?_take_of_lt hi, hbefore, List.getElem?_take_of_lt hi]
  rcases Nat.lt_or_ge i (gapFind w).stop.toNat with hi' | hi'
  · rw [hzero i hi hi', hzero' i hi hi']
  · have := congrArg (·[i - (gapFind w).stop.toNat]?) hafter
    simpa only [List.getElem?_drop, Nat.add_sub_cancel' hi'] using this

/-- A gap is present exactly if its text has a pair of colons (R153). -/
theorem gapPresent_iff_doubleColons (w : Words) :
    gapPresent (gapFind w) = true ↔ doubleColons (genText w) = 1 := by
  rw [gapPresent_iff_ne (gapFind_legal w), (oneDoubleColonIffAGap w).1]
  simp

/-- Different operands have different generic texts (R199). -/
theorem genText_injective : Function.Injective genText := by
  intro w w' h
  have hsame : gapPresent (gapFind w) = true ↔ gapPresent (gapFind w') = true := by
    rw [gapPresent_iff_doubleColons, h, gapPresent_iff_doubleColons]
  have htext (w : Words) : genText w = grammarText w := (genericTextMeetsTheGrammar w).2.1
  rw [htext, htext, grammarText, grammarText] at h
  apply groupsOf_injective
  by_cases hp : gapPresent (gapFind w) = true
  · have hp' := hsame.mp hp
    rw [if_pos hp, if_pos hp'] at h
    obtain ⟨hbefore, hafter⟩ := (colonsSeparate_joinGroups _).pair_unique (colonsSeparate_joinGroups _) h
    exact groupsOf_eq_of_outside_gap hp hp' (joinGroups_injective hbefore) (joinGroups_injective hafter)
  · rw [if_neg hp, if_neg (mt hsame.mpr hp)] at h
    exact joinGroups_injective h

end Sys2Proof.Machine
end

section
/-! SUPPORT. An edge of phase EMIT sees nothing but reset and the sink's answer (R195, R218). -/

namespace Sys2Proof.Machine

/-- Two states of phase EMIT that agree but for their next edges, with the same reset and the same answer of the sink
there, do the same (R218 rows 1 to 4). -/
theorem step_emit_congr {s s' : State} (hp : s.ph = .emit) (hp' : s'.ph = .emit) (htick : tick s = tick s')
    (hr : (edgeOf s).rst = (edgeOf s').rst) (ha : sinkAnswer (edgeOf s) = sinkAnswer (edgeOf s')) :
    step s = step s' := by
  cases hrst : (edgeOf s').rst with
  | true => rw [step_reset s (hr.trans hrst), step_reset s' hrst, htick]
  | false => rw [step_emit s (hr.trans hrst) hp, step_emit s' hrst hp', htick, ha]

end Sys2Proof.Machine
end

section
/-! SUPPORT. How the string of an ENC6 shows its family: by a dot and by its third byte (R199). -/

namespace Sys2Proof.Machine

/-! ### Characters that tell the families apart -/

/-- A dotted-decimal text begins with a decimal digit (R103). -/
theorem v4Text_eq_digit_cons (x : Word) : ∃ n < 10, ∃ rest, v4Text x = decDigit n :: rest := by
  obtain ⟨d, ds, hd⟩ := List.exists_cons_of_length_pos (dec8_length_bounds (BitVec.extractLsb' 24 8 x)).1
  obtain ⟨n, hn, rfl⟩ := dec8_digits (BitVec.extractLsb' 24 8 x) d (hd ▸ List.mem_cons_self)
  refine ⟨n, hn, ds ++ [dot] ++ dec8 (BitVec.extractLsb' 16 8 x) ++ [dot] ++ dec8 (BitVec.extractLsb' 8 8 x) ++ [dot] ++
    dec8 (BitVec.extractLsb' 0 8 x), ?_⟩
  rw [v4Text_eq, hd]
  simp only [List.cons_append]

/-- A dotted-decimal text has a dot (R103). -/
theorem dot_mem_v4Text (x : Word) : dot ∈ v4Text x := by
  rw [v4Text_eq]
  simp

/-- A mapped text has a dot (R188). -/
theorem dot_mem_mappedText (x : Word) : dot ∈ mappedText x := List.mem_append_right _ (dot_mem_v4Text x)

/-- A compatible text has a dot (R189). -/
theorem dot_mem_compatText (x : Word) : dot ∈ compatText x := List.mem_append_right _ (dot_mem_v4Text x)

/-- A dotted-decimal text has no colon (R107). -/
theorem colon_notMem_v4Text (x : Word) : colon ∉ v4Text x := by
  intro hmem
  rcases v4Text_chars x colon hmem with h | ⟨n, hn, h⟩
  · exact absurd h (by decide)
  · have hbound : colon.toNat ≤ 0x39 := h ▸ (decDigit_bounds hn).2
    exact absurd hbound (by decide)

/-- A generic text has no dot (R107). -/
theorem dot_notMem_genText (w : Words) : dot ∉ genText w := fun h => (genText_mem_outputChars w dot h).2 rfl

/-- A generic text has a colon: word 0 sends one under each of its tags (R149). -/
theorem colon_mem_genText (w : Words) : colon ∈ genText w := by
  have hfirst : colon ∈ emitTag (classify 0 (gapFind w)) w.w0 := by
    rcases classify_zero_cases _ (gapFind_legal w) with ht | ht | ht <;> rw [ht] <;> simp
  exact List.mem_append_left _ (List.mem_append_left _ (List.mem_append_left _ hfirst))

/-- The string of an ENC6 has a colon (R187 to R189). -/
theorem colon_mem_textOf_enc6 (w : Words) : colon ∈ textOf .enc6 w := by
  rcases familyOf_enc6_cases w with ⟨hf, -⟩ | ⟨hf, -⟩ | hf
  · rw [textOf_of_mapped hf]
    exact List.mem_cons_self
  · rw [textOf_of_compat hf]
    exact List.mem_cons_self
  · rw [textOf_of_generic hf]
    exact colon_mem_genText w

/-! ### The family of a string -/

/-- The family a string of ENC6 shows: without a dot it is generic, and of the others the mapped ones have an `f` as
third byte (R199). -/
def shownFamily (str : List Byte) : Family :=
  if dot ∈ str then if str[2]? = some 0x66 then .mapped else .compat else .generic

/-- The mapped token shows the family MAPPED (R188). -/
theorem shownFamily_mappedText (x : Word) : shownFamily (mappedText x) = .mapped := by
  rw [shownFamily, if_pos (dot_mem_mappedText x)]
  exact if_pos rfl

/-- After the compatible token comes a decimal digit (R189). -/
theorem shownFamily_compatText (x : Word) : shownFamily (compatText x) = .compat := by
  obtain ⟨n, hn, rest, hv⟩ := v4Text_eq_digit_cons x
  have hthird : (compatText x)[2]? = some (decDigit n) := by rw [compatText, hv]; rfl
  have hne : decDigit n ≠ 0x66 := by
    intro h
    have hbound : (0x66 : Byte).toNat ≤ 0x39 := h ▸ (decDigit_bounds hn).2
    exact absurd hbound (by decide)
  rw [shownFamily, if_pos (dot_mem_compatText x), hthird, if_neg (by simpa using hne)]

/-- A generic text shows the family GENERIC (R187). -/
theorem shownFamily_genText (w : Words) : shownFamily (genText w) = .generic := if_neg (dot_notMem_genText w)

/-- The string of an ENC6 shows the family of its operand (R199). -/
theorem shownFamily_textOf (w : Words) : shownFamily (textOf .enc6 w) = familyOf .enc6 w := by
  rcases familyOf_enc6_cases w with ⟨hf, -⟩ | ⟨hf, -⟩ | hf
  · rw [textOf_of_mapped hf, hf, shownFamily_mappedText]
  · rw [textOf_of_compat hf, hf, shownFamily_compatText]
  · rw [textOf_of_generic hf, hf, shownFamily_genText]

/-- Different operands have different strings: they show their families, and within a family the text determines the
operand (R199). -/
theorem textOf_enc6_injective : Function.Injective (textOf .enc6) := by
  intro w w' h
  have hfam : familyOf .enc6 w' = familyOf .enc6 w := by rw [← shownFamily_textOf, ← h, shownFamily_textOf]
  rcases familyOf_enc6_cases w with ⟨hf, -⟩ | ⟨hf, -⟩ | hf
  · rw [textOf_of_mapped hf, textOf_of_mapped (hfam.trans hf)] at h
    exact eq_of_last_word hfam (by rw [hf]; decide) (v4Text_injective (List.append_cancel_left h))
  · rw [textOf_of_compat hf, textOf_of_compat (hfam.trans hf)] at h
    exact eq_of_last_word hfam (by rw [hf]; decide) (v4Text_injective (List.append_cancel_left h))
  · rw [textOf_of_generic hf, textOf_of_generic (hfam.trans hf)] at h
    exact genText_injective h

end Sys2Proof.Machine
end

section
/-! The obligations about the IPv6 Encoder and its dispatcher (43_ipv6_dispatcher). -/

namespace Sys2Proof.Machine

/-! ### Families -/

/-- Settles O6: each predicate is a comparison of words; for the expanded forms, the high group of a word is zero for the
values up to `0xffff`. -/
theorem familyPredicatesPartition : Obligations.FamilyPredicatesPartition := by
  intro w
  refine ⟨isMapped_iff w, isCompat_iff w, ?_, ?_, isGeneric_iff w, fun ⟨hm, hc⟩ => ?_⟩
  · rw [hiOf_ne_zero_iff]
    exact isCompat_iff w
  · rw [isGeneric_iff, Bool.eq_false_iff, Bool.eq_false_iff, ne_eq, ne_eq, isMapped_iff, isCompat_iff, ← not_lt]
    tauto
  · rw [isMapped_eq_false_of_isCompat hc] at hm
    cases hm

/-- Settles O7, by the predicate that holds. -/
theorem familyOfARequest : Obligations.FamilyOfARequest := fun _ =>
  ⟨rfl, familyOf_of_isMapped, familyOf_of_isCompat, familyOf_of_isGeneric, rfl, rfl, rfl, rfl⟩

/-! ### Accepting a request -/

/-- Settles O10: the family and the string are the ones the predicates select, and every string fits `OB`. -/
theorem enc6IsAccepted : Obligations.Enc6IsAccepted := by
  intro w s hp
  have hacc := acceptEffect_accept .enc6 w (familyOf .enc6 w) (textOf .enc6 w) s (textOf_length_bounds .enc6 w).2
  refine ⟨_, offer_idle _ _ _ _ s hp, ?_⟩
  rw [textOf_enc6] at hacc ⊢
  exact hacc

/-- Settles O11: the token and a dotted-decimal text have at most 22 bytes, so they fit `OB`. -/
theorem enc6MappedIsAccepted : Obligations.Enc6MappedIsAccepted := by
  intro w3 s hp
  obtain ⟨-, hlen⟩ := v4Text_length_bounds w3
  exact ⟨_, offer_idle _ _ _ _ s hp, acceptEffect_accept _ _ _ _ s ((mappedText_length w3).trans_le (by omega))⟩

/-- Settles O12: the token and a dotted-decimal text have at most 17 bytes, so they fit `OB`. -/
theorem enc6CompatIsAccepted : Obligations.Enc6CompatIsAccepted := by
  intro w3 s hp
  obtain ⟨-, hlen⟩ := v4Text_length_bounds w3
  exact ⟨_, offer_idle _ _ _ _ s hp, acceptEffect_accept _ _ _ _ s ((compatText_length w3).trans_le (by omega))⟩

/-- Settles O13: a generic text has at most 39 bytes, so it fits `OB`. -/
theorem enc6GenericIsAccepted : Obligations.Enc6GenericIsAccepted := fun w s hp =>
  ⟨_, offer_idle _ _ _ _ s hp, acceptEffect_accept _ _ _ _ s (genText_length_bounds w).2⟩

/-- Settles O14: every instruction is an offer, and in phase EMIT an offer changes nothing. -/
theorem requestsWaitWhileBusy : Obligations.RequestsWaitWhileBusy := by
  intro i s hp
  obtain ⟨fam, str, hexec⟩ := exec_is_offer i s
  exact ⟨hexec ▸ offer_emit _ _ _ _ s hp, fun rst => by simp [reqReady, hp]⟩

/-- Settles O17: the step accepts what the request port shows, and every string fits `OB`. -/
theorem acceptStep : Obligations.AcceptStep := by
  intro s hp hr hv
  have hacc := acceptEffect_accept (edgeOf s).op (edgeOf s).words (familyOf (edgeOf s).op (edgeOf s).words)
    (edgeOf s).text (tick s) (textOf_length_bounds _ _).2
  refine ⟨_, step_accepts s hp hr hv, hacc, ?_, rfl⟩
  rw [accept_events, tick_events, Edge.words, operandOf_wordsOf]

/-- Settles O32: what an edge of phase EMIT does depends on reset and the sink's answer. -/
theorem emitIgnoresTheRequestPort : Obligations.EmitIgnoresTheRequestPort := by
  intro s e e' rest hp hr hy hf hc
  have hanswer : sinkAnswer e = sinkAnswer e' := by rw [sinkAnswer, sinkAnswer, hy, hf, hc]
  exact step_emit_congr hp hp rfl hr hanswer

/-! ### Strings -/

/-- Settles O45: the words before such a gap's end are zero and the group after it is not, so the operand is
compatible. -/
theorem genericOperandNeverHasGapZeroSix : Obligations.GenericOperandNeverHasGapZeroSix := by
  intro w hgen hgap
  have hstart : (gapFind w).start.toNat = 0 := by rw [hgap]; rfl
  have hstop : (gapFind w).stop.toNat = 6 := by rw [hgap]; rfl
  have h0 : w.w0 = 0 := eq_zero_of_gap_covers (k := 0) rfl (by omega) (by omega)
  have h1 : w.w1 = 0 := eq_zero_of_gap_covers (k := 1) rfl (by omega) (by omega)
  have h2 : w.w2 = 0 := eq_zero_of_gap_covers (k := 2) rfl (by omega) (by omega)
  obtain ⟨-, -, -, -, hafter⟩ := gapFind_isZeroRun (w := w) (by omega)
  rw [hstop] at hafter
  have h3 : hiOf w.w3 ≠ 0 := fun hhi =>
    hafter.resolve_left (by decide) ((hiOf_eq_zero_iff (k := 3) rfl).mp hhi)
  have hcompat := (isCompat_iff w).mpr ⟨h0, h1, h2, (hiOf_ne_zero_iff w.w3).mp h3⟩
  rw [((isGeneric_iff w).mp hgen).2] at hcompat
  cases hcompat

/-- Settles O46: by the length of the dotted-decimal text; the shortest and the longest string of each family are those
of the operands with least and most digits. -/
theorem stringLengthByFamily : Obligations.StringLengthByFamily := by
  refine ⟨fun op w => ?_, ⟨⟨0, 0, 0, 0⟩, by decide⟩,
    ⟨⟨0xffffffff, 0xffffffff, 0xffffffff, 0xffffffff⟩, by decide⟩, ⟨⟨0, 0, 0, 0⟩, by decide⟩,
    ⟨⟨0, 0, 0, 0xffffffff⟩, by decide⟩, ⟨⟨0, 0, 0x0000ffff, 0⟩, by decide⟩,
    ⟨⟨0, 0, 0x0000ffff, 0xffffffff⟩, by decide⟩, ⟨⟨0, 0, 0, 0x01000000⟩, by decide⟩,
    ⟨⟨0, 0, 0, 0xffffffff⟩, by decide⟩⟩
  obtain ⟨h2, h39⟩ := textOf_length_bounds op w
  obtain ⟨h7, h15⟩ := v4Text_length_bounds w.w3
  refine ⟨h2, h39, fun hf => ?_, fun hf => ?_, fun hf => ?_⟩
  · rw [textOf_of_v4 hf]
    exact ⟨h7, h15⟩
  · rw [textOf_of_mapped hf, mappedText_length]
    omega
  · rw [textOf_of_compat hf, compatText_length]
    omega

/-- Settles O48: an ENC6 string shows its family, and within a family the text determines the operand; the colon tells
ENC4 from ENC6. -/
theorem oneStringPerAddress : Obligations.OneStringPerAddress := by
  refine ⟨textOf_enc6_injective, fun _ _ h => v4Text_injective h, fun w h => ?_, fun w h => ?_, fun w h => ?_,
    fun w => colon_notMem_v4Text w.w3, fun w w' h => ?_⟩
  · rw [textOf_of_isGeneric h]
    exact dot_notMem_genText w
  · rw [textOf_of_mapped (familyOf_of_isMapped h)]
    exact ⟨⟨_, rfl⟩, dot_mem_mappedText w.w3⟩
  · rw [textOf_of_compat (familyOf_of_isCompat h)]
    obtain ⟨n, hn, rest, hv⟩ := v4Text_eq_digit_cons w.w3
    obtain ⟨hlo, hhi⟩ := decDigit_bounds hn
    refine ⟨⟨decDigit n, hlo, hhi, ?_⟩, dot_mem_compatText w.w3⟩
    rw [compatText, hv]
    exact ⟨rest, rfl⟩
  · exact colon_notMem_v4Text w.w3 (h ▸ colon_mem_textOf_enc6 w' : colon ∈ textOf .enc4 w)

/-- Settles O49: under the invariants the mux reads the family, the words and the tags of the string's own operand. -/
theorem emissionMuxGivesTheBufferedString : Obligations.EmissionMuxGivesTheBufferedString := by
  refine ⟨fun s h hdv => ?_, fun fam t t' w hfam => ?_⟩
  · have hmux : muxText s.fam s.t s.w = textOf s.op s.w := by
      rw [textOf_eq_muxText, h.family hdv, h.tags hdv, h.gap hdv]
    rw [hmux]
    exact ⟨h.textLength hdv, h.text hdv⟩
  · cases fam with
    | generic => exact absurd rfl hfam
    | v4 => rfl
    | mapped => rfl
    | compat => rfl

end Sys2Proof.Machine
end

section
/-! SUPPORT. A failing sink ends a request at the byte on offer (R212), and an edge of phase IDLE sees nothing but reset
and the request port (R218, R249). -/

namespace Sys2Proof.Machine

/-- Two states of phase IDLE that agree but for their next edges, with the same reset and the same request port there,
do the same (R218 rows 1, 5 and 6). -/
theorem step_idle_congr {s s' : State} (hp : s.ph = .idle) (hp' : s'.ph = .idle) (htick : tick s = tick s')
    (hr : (edgeOf s).rst = (edgeOf s').rst) (hv : (edgeOf s).reqValid = (edgeOf s').reqValid)
    (hreq : fetchRequest (edgeOf s) = fetchRequest (edgeOf s')) : step s = step s' := by
  cases hrst : (edgeOf s').rst with
  | true => rw [step_reset s (hr.trans hrst), step_reset s' hrst, htick]
  | false =>
    cases hval : (edgeOf s').reqValid with
    | true =>
      rw [step_accept s (hr.trans hrst) hp (hv.trans hval), step_accept s' hrst hp' hval, hreq, htick]
    | false => rw [step_quiet s (hr.trans hrst) hp (hv.trans hval), step_quiet s' hrst hp' hval, htick]

/-- Using up an edge leaves the byte on offer (R34). -/
theorem byteOnOffer_tick (s : State) : byteOnOffer (tick s) = byteOnOffer s := rfl

/-- A beat the sink fails, whether or not it is ready (R212). -/
theorem step_failed {s : State} (hp : s.ph = .emit) (hr : (edgeOf s).rst = false) (hf : (edgeOf s).snkFail = true) :
    step s = .next (abort (edgeOf s).snkCode (tick s)) := by
  rw [step_emit s hr hp, sinkAnswer, if_pos hf, beat]

section
variable {l : List Event} {op : Op} {w : Words} {n : Nat} {s : State}

/-- A request the sink fails ends there, the code recorded as the sink gave it (R212, R216). -/
theorem UnderWay.fail {f : Edge} {rest : List Edge} (h : UnderWay l op w n (f :: rest) s) (hr : f.rst = false)
    (hf : f.snkFail = true) :
    step s = .next (abort f.snkCode (tick s)) ∧ (abort f.snkCode (tick s)).events =
      l ++ partialEvents op w n ++ [.fail f.snkCode, .done true f.snkCode] := by
  have he : edgeOf s = f := edgeOf_cons s f rest h.ahead
  refine ⟨he ▸ step_failed h.phase (he ▸ hr) (he ▸ hf), ?_⟩
  rw [abort_events, tick_events, h.record, List.append_assoc]
  rfl

/-- The data registers of a request under way describe it: family, gap, tags and the valid bit (R29, R37). -/
theorem UnderWay.stages {script : List Edge} (h : UnderWay l op w n script s) :
    s.fam = familyOf op w ∧ (⟨s.gs, s.ge⟩ : Gap) = gapFind w ∧ s.t = tagsOf (gapFind w) ∧ s.dv = true := by
  have hdv := h.regs.dv_of_emit h.phase
  have hgap := h.regs.gap hdv
  rw [← h.operation, ← h.operand]
  exact ⟨h.regs.family hdv, hgap, hgap ▸ h.regs.tags hdv, hdv⟩

end

end Sys2Proof.Machine
end

section
/-! The obligations about the exception SinkFail and the priority of an edge's inputs (60_exceptions). -/

namespace Sys2Proof.Machine

/-- Settles O54: the accept step, then the edges without failure (`UnderWay.run`), then the abort step, which keeps the
pointer and the data registers. -/
theorem aSinkFailureEndsTheRequestPrecisely : Obligations.ASinkFailureEndsTheRequestPrecisely := by
  intro s e f es rest hp hr hv hs hcalm hcount hfr hff
  obtain ⟨u, hstep, hu⟩ := underWay_of_accept hs hp hr hv
  obtain ⟨v, hrun, hw⟩ := hu.run es hcalm (by rw [Nat.zero_add]; exact hcount)
  rw [Nat.zero_add] at hw
  obtain ⟨hfin, hev⟩ := hw.fail hfr hff
  obtain ⟨hfam, hgap, htags, hdv⟩ := hw.stages
  refine ⟨abort f.snkCode (tick v), ?_, hev, rfl, hw.taken, rfl, hw.operation, hw.operand, hfam, hgap, htags,
    hw.olen_toNat, hdv, congrArg List.tail hw.ahead⟩
  rw [run_succ _ _ _ hstep, run_add _ _ _ _ hrun]
  exact run_succ 0 _ _ hfin

/-- Settles O19, by the rows of R218: under each row's condition `edgeEvents` is what the row records, and `tick` uses
up one edge. -/
theorem inputPriorityDecidesTheEvents : Obligations.InputPriorityDecidesTheEvents := by
  intro s
  obtain ⟨t, hstep⟩ := everyEdgeCompletes s
  refine ⟨t, hstep, ?_⟩
  rcases step_cases s t hstep with ⟨hr, rfl⟩ | ⟨hr, hp, hf, rfl⟩ | ⟨hr, hp, hf, hy, ⟨hl, rfl⟩ | ⟨hl, rfl⟩⟩ |
    ⟨hr, hp, hf, hy, rfl⟩ | ⟨hr, hp, hv, op, w, rfl, rfl, rfl⟩ | ⟨hr, hp, hv, rfl⟩
  · simp [edgeEvents, hr]
  · simp [edgeEvents, hr, hp, hf]
  · simp [edgeEvents, hr, hp, hf, hy, hl, byteOnOffer_tick]
  · simp [edgeEvents, hr, hp, hf, hy, hl, byteOnOffer_tick]
  · simp [edgeEvents, hr, hp, hf, hy]
  · simp [edgeEvents, hr, hp, hv, fetchRequest, operandOf_wordsOf]
  · simp [edgeEvents, hr, hp, hv]

/-- Settles O33: what an edge of phase IDLE does depends on reset and the request port. -/
theorem idleIgnoresTheSinkPort : Obligations.IdleIgnoresTheSinkPort := by
  intro s e e' rest hp hr hv hop ha
  have hreq : fetchRequest e = fetchRequest e' := by rw [fetchRequest, fetchRequest, hop, ha]
  exact step_idle_congr hp hp rfl hr hv hreq

/-- Settles O23: the step is `abort` whatever `snk_ready` is. -/
theorem abortOnSinkFailure : Obligations.AbortOnSinkFailure := by
  intro s hp hr hf
  exact ⟨_, step_failed hp hr hf, List.append_assoc .., rfl, rfl, rfl,
    dataKept_trans (dataKept_tick s) (dataKept_abort _ _)⟩

end Sys2Proof.Machine
end

section
/-! SUPPORT. A request cut off by reset records no completion (R241). -/

namespace Sys2Proof.Machine

/-- A request of which the sink has taken some bytes, none of them the last, has no completion yet (R58, R216). -/
theorem completionsOf_partialEvents (op : Op) (w : Words) (n : Nat) : completionsOf (partialEvents op w n) = [] := by
  refine List.filterMap_eq_nil_iff.mpr fun v hv => ?_
  rcases List.mem_cons.mp hv with rfl | hbyte
  · rfl
  · obtain ⟨b, -, rfl⟩ := List.mem_map.mp hbyte
    rfl

/-- A reset ends a request under way: `Reset` follows the bytes already taken (R240, R241). -/
theorem UnderWay.cut {l : List Event} {op : Op} {w : Words} {n : Nat} {f : Edge} {rest : List Edge} {s : State}
    (h : UnderWay l op w n (f :: rest) s) (hr : f.rst = true) :
    step s = .next (resetStep (tick s)) ∧ (resetStep (tick s)).events = l ++ partialEvents op w n ++ [.reset] := by
  have he : edgeOf s = f := edgeOf_cons s f rest h.ahead
  refine ⟨step_reset s (he ▸ hr), ?_⟩
  rw [resetStep_events, tick_events, h.record]

end Sys2Proof.Machine
end

section
/-! The obligations about reset (70_reset_and_hazards). -/

namespace Sys2Proof.Machine

/-- Settles O55: the accept step, then the edges without reset (`UnderWay.run`), then the reset step; none of the events
they record is a completion. -/
theorem aResetCutsTheRequestWithoutCompletion : Obligations.AResetCutsTheRequestWithoutCompletion := by
  intro s e f es rest hp hr hv hs hcalm hcount hfr
  obtain ⟨u, hstep, hu⟩ := underWay_of_accept hs hp hr hv
  obtain ⟨v, hrun, hw⟩ := hu.run es hcalm (by rw [Nat.zero_add]; exact hcount)
  rw [Nat.zero_add] at hw
  obtain ⟨hfin, hev⟩ := hw.cut hfr
  refine ⟨resetStep (tick v), ?_, hev, ?_, rfl, rfl, rfl, rfl, congrArg List.tail hw.ahead⟩
  · rw [run_succ _ _ _ hstep, run_add _ _ _ _ hrun]
    exact run_succ 0 _ _ hfin
  · rw [hev, completionsOf_append, completionsOf_append, completionsOf_partialEvents, List.append_nil]
    exact List.append_nil _

/-- Settles O24: the step is `resetStep`, and `req_ready` in the cycle of the reset is 0 by `rst` itself. -/
theorem resetStepFromAnyState : Obligations.ResetStepFromAnyState := by
  intro s hr
  exact ⟨_, step_reset s hr, rfl, rfl, rfl, rfl, rfl, rfl, Bool.and_false _, rfl⟩

end Sys2Proof.Machine
end
